-- ==== Sys2Proof/Word.lean ====
section
/-! DEFINITION. The widths of `base62_codec` (spec/00_scope.md R7): the buses, words and halves every other file speaks of. -/

namespace Sys2Proof

/-- One 8-bit code unit or identifier byte (R7 CHAR_BITS, R12). -/
abbrev Byte := BitVec 8

/-- The command word on `cmd_word` (R7 CMD_BITS, R60). -/
abbrev CmdWord := BitVec 16

/-- The 176-bit payload and data buses, 22 lanes of 8 bits (R7 PAYLOAD_BITS). -/
abbrev Bus := BitVec 176

/-- The 128-bit identifier (R7 ID_BITS, R46). -/
abbrev Ident := BitVec 128

/-- One 64-bit half of the identifier (R7 HALF_BITS, R46). -/
abbrev Half := BitVec 64

/-- A word of the reverse-lookup ROM, valid bit then six digit bits (R43). -/
abbrev RlutWord := BitVec 7

/-- The response flags (R7 FLAG_BITS, R26). -/
abbrev Flags := BitVec 4

/-- The response status code (R7 STATUS_BITS, R151). -/
abbrev StatusCode := BitVec 3

end Sys2Proof
end

