-- ==== Sys2Proof/Syntax.lean ====
section
/-! DEFINITION. The commands as syntax: one constructor for each row of spec/opcode_table.json (30_encoding.md R66),
and the assembler's lines (R71, R72) with the command each stands for. -/

namespace Sys2Proof

/-- The four commands of R66. The operands have the width of their fields (R63 to R65), so every term is a legal
command and every legal command is a term. -/
inductive Instr where
  /-- ENCODE (R80); its operand is the payload. -/
  | encode
  /-- DECODE (`strict` = false) and DECODE.S (`strict` = true) with the LEN field (R100, R63, R64). -/
  | decode (strict : Bool) (len : Byte)
  /-- ALPHA_RD with the IDX field (R130, R65). -/
  | alphaRd (idx : Byte)
  /-- RLUT_RD with the CODE field (R131, R65). -/
  | rlutRd (code : Byte)
deriving DecidableEq, Repr

/-- A command as the command channel carries it: the word and the payload (R60). -/
structure Command where
  word    : CmdWord
  payload : Bus
deriving DecidableEq, Repr

/-- One line of the command syntax of R71 and R72. Numbers are as written, before the assembler has checked them; a
string is its list of 8-bit code units (R12). -/
inductive AsmLine where
  /-- `ENCODE id` -/
  | encode (id : Nat)
  /-- `ENCODE.B b0, b1, ..., b15` -/
  | encodeBytes (bytes : List Nat)
  /-- `DECODE len, "s"` and `DECODE.S len, "s"` -/
  | decode (strict : Bool) (len : Nat) (s : List Byte)
  /-- the pseudo-instructions `DECODE "s"` and `DECODE.S "s"` (R72) -/
  | decodeString (strict : Bool) (s : List Byte)
  /-- `ALPHA_RD idx` -/
  | alphaRd (idx : Nat)
  /-- `RLUT_RD code` -/
  | rlutRd (code : Nat)
  /-- the pseudo-instruction `ILLEGAL w` (R72) -/
  | illegal (w : Nat)
deriving DecidableEq, Repr

end Sys2Proof
end

