-- ==== Sys2Proof/WellFormed.lean ====
section
/-! DEFINITION. Which terms of the syntax are well formed. An `Instr` carries its limits in its types: S is one bit and
LEN, IDX and CODE are 8 bits, and every value of them is a legal operand (30_encoding.md R63 to R65), so every `Instr` is
well formed. An assembler line holds numbers as written, and the limits of R71 are checked here. -/

namespace Sys2Proof

/-- The check of one assembler line: an assembler refuses a `len`, `idx` or `code` above 255 (R71); `id` is a 128-bit
number, ENCODE.B takes 16 bytes, and ILLEGAL takes a 16-bit word. DESIGN CHOICE (log entry 14): `DECODE len, "s"` is not held
against the length of s, so a line with `len` = n mod 256 for a string of n > 255 units (R184, I10) is well formed too. -/
def AsmLine.wellFormed : AsmLine → Bool
  | .encode id        => decide (id < 2 ^ 128)
  | .encodeBytes bs   => decide (bs.length = 16) && bs.all fun b => decide (b < 256)
  | .decode _ len _   => decide (len ≤ 255)
  | .decodeString _ _ => true
  | .alphaRd idx      => decide (idx ≤ 255)
  | .rlutRd code      => decide (code ≤ 255)
  | .illegal w        => decide (w < 2 ^ 16)

/-- Every command is well formed: the operand types are the widths of R63 to R65, and R66 leaves those fields free. -/
def Instr.wellFormed : Instr → Bool
  | .encode     => true
  | .decode _ _ => true
  | .alphaRd _  => true
  | .rlutRd _   => true

end Sys2Proof
end

