-- ==== Sys2Proof/Decode.lean ====
section
/-! DEFINITION. The command word: the decoder, total on all 16-bit words and refusing by name (30_encoding.md R66, R68),
and after it the encoder (R60). -/

namespace Sys2Proof

/-- Why a command word is illegal (R68). -/
inductive DecodeError where
  /-- OP is 0x0 or 0x5 to 0xF. -/
  | reservedOpcode
  /-- OP is 0x1 to 0x4 and a bit that the format of OP reserves is 1 (R60). -/
  | reservedBits
deriving DecidableEq, Repr

/-- A row of the opcode map of R66. -/
structure OpcodeRow where
  mnemonic : String
  pattern  : CmdWord
  mask     : CmdWord
deriving DecidableEq, Repr

/-- The opcode map of R66. -/
def opcodeMap : List OpcodeRow :=
  [⟨"ENCODE", 0x0001, 0xFFFF⟩, ⟨"DECODE", 0x0002, 0x00EF⟩, ⟨"ALPHA_RD", 0x0003, 0x00FF⟩, ⟨"RLUT_RD", 0x0004, 0x00FF⟩]

/-- A word selects a row when it equals the row's pattern under the row's mask (R66). -/
def OpcodeRow.selects (r : OpcodeRow) (w : CmdWord) : Bool := w &&& r.mask == r.pattern

/-- The opcode map's row of a command. -/
def Instr.row : Instr → OpcodeRow
  | .encode     => ⟨"ENCODE", 0x0001, 0xFFFF⟩
  | .decode _ _ => ⟨"DECODE", 0x0002, 0x00EF⟩
  | .alphaRd _  => ⟨"ALPHA_RD", 0x0003, 0x00FF⟩
  | .rlutRd _   => ⟨"RLUT_RD", 0x0004, 0x00FF⟩

/-- OP, bits [3:0] (R60). -/
def opField (w : CmdWord) : BitVec 4 := w.extractLsb' 0 4

/-- S, bit [4] (R63). -/
def strictField (w : CmdWord) : Bool := w.getLsbD 4

/-- ARG, bits [15:8]: LEN, IDX or CODE (R64, R65). -/
def argField (w : CmdWord) : Byte := w.extractLsb' 8 8

/-- The name under which an illegal word is refused: by its OP (R68). -/
def illegalReason (w : CmdWord) : DecodeError :=
  if 1 ≤ (opField w).toNat ∧ (opField w).toNat ≤ 4 then .reservedBits else .reservedOpcode

/-- The decoder: the command that the row selecting the word gives (R66), or the reason there is none (R68). -/
def decodeWord (w : CmdWord) : Except DecodeError Instr :=
  if w &&& 0xFFFF = 0x0001 then .ok .encode
  else if w &&& 0x00EF = 0x0002 then .ok (.decode (strictField w) (argField w))
  else if w &&& 0x00FF = 0x0003 then .ok (.alphaRd (argField w))
  else if w &&& 0x00FF = 0x0004 then .ok (.rlutRd (argField w))
  else .error (illegalReason w)

/-- A word put together from its fields, ARG [15:8], reserved [7:5] = 0, S [4], OP [3:0] (R60). -/
def wordOfFields (arg : Byte) (s : Bool) (op : BitVec 4) : CmdWord :=
  arg ++ (0#3 ++ (BitVec.ofBool s ++ op))

/-- The encoder: the command word of a command (R60, R71). -/
def encodeInstr : Instr → CmdWord
  | .encode          => wordOfFields 0 false 0x1
  | .decode strict n => wordOfFields n strict 0x2
  | .alphaRd idx     => wordOfFields idx false 0x3
  | .rlutRd code     => wordOfFields code false 0x4

/-- The instruction the decoder reads from the low `nbits` bits of `w`, numbered as spec/opcode_table.json numbers them.
The command word is the one unit the hardware takes, 16 bits at once (R60, R69), so a number that needs more is none. -/
def decodeTableWord (nbits w : Nat) : Option Instr :=
  if w % 2 ^ nbits < 2 ^ 16 then (decodeWord (BitVec.ofNat 16 (w % 2 ^ nbits))).toOption else none

end Sys2Proof
end

