-- ==== Sys2Proof/Machine/Flags.lean ====
section
/-! DEFINITION. The response flags (10_state.md R26): bit 0 OVF_LO, bit 1 OVF_HI, bit 2 NONALPHA, bit 3 reserved and 0. -/

namespace Sys2Proof.Machine

/-- The four flags `{0, NONALPHA, OVF_HI, OVF_LO}`, bits 3 down to 0 (R26). -/
def packFlags (nonAlpha ovfHi ovfLo : Bool) : Flags :=
  0#1 ++ (BitVec.ofBool nonAlpha ++ (BitVec.ofBool ovfHi ++ BitVec.ofBool ovfLo))

/-- Flag bit 0 (R26, R106). -/
def ovfLo (f : Flags) : Bool := f.getLsbD 0

/-- Flag bit 1 (R26, R106). -/
def ovfHi (f : Flags) : Bool := f.getLsbD 1

/-- Flag bit 2 (R26, R107, R131). -/
def nonAlpha (f : Flags) : Bool := f.getLsbD 2

/-- Overflow of a half: its weighted sum is 2^64 or more and is truncated (R106). -/
def overflows (sum : Nat) : Bool := decide (2 ^ 64 ≤ sum)

end Sys2Proof.Machine
end

