-- ==== Sys2Proof/Machine/Operands.lean ====
section
/-! DEFINITION. The operands of the commands: the lanes of the identifier and of the character string (20_memory.md R46,
R47), base62 digits and weighted sums (00_scope.md R11, 41_decode.md R104), and the two circuits the spec allows in their
place (40_encode.md R82, 41_decode.md R109). -/

namespace Sys2Proof.Machine

/-- The identifier of an ENCODE payload, bits [127:0]; bits [175:128] are ignored (R61, R80). -/
def identOf (p : Bus) : Ident := p.extractLsb' 0 128

/-- `low = id[63:0]` (R46, R81). -/
def lowHalf (id : Ident) : Half := id.extractLsb' 0 64

/-- `high = id[127:64]` (R46, R81). -/
def highHalf (id : Ident) : Half := id.extractLsb' 64 64

/-- The identifier `{high, low}` (R108). -/
def joinHalves (high low : Half) : Ident := high ++ low

/-- `byte_i(id) = id[8i+7:8i]` (R11, R46). -/
def byteOf (id : Ident) (i : Nat) : Byte := id.extractLsb' (8 * i) 8

/-- `chr_q(bus) = bus[8q+7:8q]`, the character at string position q (R11, R47). -/
def chr (bus : Bus) (q : Nat) : Byte := bus.extractLsb' (8 * q) 8

/-- The bus with lane q replaced by c, the assignment `out[8q+7 : 8q] = c` of R80. -/
def setChr (bus : Bus) (q : Nat) (c : Byte) : Bus :=
  (bus &&& ~~~((0xFF#176) <<< (8 * q))) ||| (c.setWidth 176 <<< (8 * q))

/-- `digit_k(v) = (v div 62^k) mod 62` (R11, R82). -/
def digit (v k : Nat) : Nat := v / 62 ^ k % 62

/-- The weighted sum of eleven digits, `sum over k in 0..10 of g_k * 62^k`, over unbounded naturals (R10, R104, R105). -/
def weightedSum (g : Nat → Nat) : Nat := ((List.range 11).map fun k => g k * 62 ^ k).sum

/-- The digits by repeated division, the source's loop of R82: `d_k = v mod 62; v = v div 62`, n times. -/
def digitsByDivision : Nat → Nat → List Nat
  | 0, _ => []
  | n + 1, v => (v % 62) :: digitsByDivision n (v / 62)

/-- The Horner form over a 64-bit register of R109: `acc = (acc * 62 + g) mod 2^64`, from the most significant digit
(k = 10) down to k = 0. -/
def horner64 (g : Nat → Nat) : Half :=
  (List.range 11).foldr (fun k acc => acc * 62 + BitVec.ofNat 64 (g k)) 0

end Sys2Proof.Machine
end

