-- ==== Sys2Proof/Machine/Rom.lean ====
section
/-! DEFINITION. The two ROMs, constants of the block (20_memory.md R40 to R48). -/

namespace Sys2Proof.Machine

/-- The alphabet ROM (R41). Words 62 and 63 are 0x00 there, and no rule reads them (R42, log entry 7). -/
def alpha (d : BitVec 6) : Byte :=
  if d.toNat < 10 then BitVec.ofNat 8 (0x30 + d.toNat)
  else if d.toNat < 36 then BitVec.ofNat 8 (0x61 + (d.toNat - 10))
  else if d.toNat < 62 then BitVec.ofNat 8 (0x41 + (d.toNat - 36))
  else 0x00

/-- The word of the reverse-lookup ROM for a code of the alphabet: valid = 1 and the digit (R43). -/
def rlutEntry (d : Nat) : RlutWord := 1#1 ++ BitVec.ofNat 6 d

/-- The reverse-lookup ROM (R44). -/
def rlut (c : Byte) : RlutWord :=
  if 0x30 ≤ c.toNat ∧ c.toNat ≤ 0x39 then rlutEntry (c.toNat - 0x30)
  else if 0x61 ≤ c.toNat ∧ c.toNat ≤ 0x7A then rlutEntry (c.toNat - 0x57)
  else if 0x41 ≤ c.toNat ∧ c.toNat ≤ 0x5A then rlutEntry (c.toNat - 0x1D)
  else 0

/-- The valid bit of `RLUT(c)`, bit 6 (R43). -/
def rlutValid (c : Byte) : Bool := (rlut c).getLsbD 6

/-- The digit of `RLUT(c)`, bits [5:0] (R43). -/
def rlutDigit (c : Byte) : BitVec 6 := (rlut c).extractLsb' 0 6

end Sys2Proof.Machine
end

