-- ==== Sys2Proof/Config.lean ====
section
/-! DEFINITION. What an implementation fixes and the spec leaves open: the latency LAT, and the free values. An opaque
constant has no body: no proof can see its value, so a claim holds for every value. -/

namespace Sys2Proof.Config

/-- LAT - 1, open (00_scope.md R8, I1). -/
opaque latMinusOne : Nat

/-- The latency LAT: an integer that is at least 1, the same for every command (R8, R191). -/
def lat : Nat := latMinusOne + 1

/-! Free values of the state elements after a reset edge (10_state.md R38, I2) and from power-up to the first reset edge
(70_reset_and_hazards.md R182, I9). The argument is the number of the step. -/

opaque freeCnt : Nat → Nat
opaque freeCmdQ : Nat → CmdWord
opaque freePayQ : Nat → Bus
opaque freeStatusQ : Nat → StatusCode
opaque freeFlagsQ : Nat → Flags
opaque freeDataQ : Nat → Bus
/-- `fsm` after power-up, in the encoding of R22 (IDLE 0, BUSY 1, RESP 2). -/
opaque freeFsm : Nat → Fin 3

/-! What the response ports show while `rsp_valid` is 0 (10_state.md R27, I3): a free draw for each cycle. -/

opaque portStatus : Nat → StatusCode
opaque portFlags : Nat → Flags
opaque portData : Nat → Bus

/-! What `cmd_ready` and `rsp_valid` show from power-up to the first reset edge (70_reset_and_hazards.md R182, I9). -/

opaque portReady : Nat → Bool
opaque portValid : Nat → Bool

/-! What the host drives at an edge that the state's script does not reach: any levels that are 0 or 1 (R185, R186). -/

opaque hostRst : Nat → Bool
opaque hostCmdValid : Nat → Bool
opaque hostCmdWord : Nat → CmdWord
opaque hostCmdPayload : Nat → Bus
opaque hostRspReady : Nat → Bool

end Sys2Proof.Config
end

