-- ==== Sys2Proof/Machine/State.lean ====
section
/-! DEFINITION. The state of the block as plain data (10_state.md R21 to R25), what the outside world may do at its ports
(R20), the reasons a step can stop, and the state after reset (R38). -/

namespace Sys2Proof.Machine

/-- The controller state (R22). The encoding 3 has no state (I8). -/
inductive Fsm where
  /-- No command in flight, a command can be accepted. -/
  | idle
  /-- A command has been accepted and its response is not yet valid. -/
  | busy
  /-- The response is presented and not yet consumed. -/
  | resp
deriving DecidableEq, Repr

/-- The levels of the input ports at one rising edge (R20). `none` is an unknown or floating level; of a bus, that at
least one of its bits is unknown or floating (I7, 70_reset_and_hazards.md R185). -/
structure Pins where
  rst        : Option Bool
  cmdValid   : Option Bool
  cmdWord    : Option CmdWord
  cmdPayload : Option Bus
  rspReady   : Option Bool
deriving DecidableEq, Repr

/-- What the outside world does next. -/
inductive Stimulus where
  /-- One rising edge of `clk` with these levels on the input ports (R20). -/
  | edge (pins : Pins)
  /-- Power is lost and returns (60_exceptions.md R167, 70_reset_and_hazards.md R182). -/
  | powerCycle
deriving DecidableEq, Repr

/-- The status codes of 60_exceptions.md R151. -/
inductive Status where
  /-- Success. -/
  | ok
  /-- The command word matches no opcode row (R152). -/
  | illegalCmd
  /-- LEN is not 22 (R153). -/
  | wrongLength
  /-- S = 1 and a character is outside the alphabet (R154). -/
  | invalidChar
  /-- IDX >= 62 (R155). -/
  | badIndex
deriving DecidableEq, Repr

/-- The result of a command: what the response registers take (R25, R70). -/
structure Response where
  status : StatusCode
  flags  : Flags
  data   : Bus
deriving DecidableEq, Repr

/-- The output ports (R20, R27). -/
structure Outputs where
  cmdReady  : Bool
  rspValid  : Bool
  rspStatus : StatusCode
  rspFlags  : Flags
  rspData   : Bus
deriving DecidableEq, Repr

/-- The architectural state (R21), and three fields of the model's own: `awaitsReset`, `script` and `tick`. -/
structure State where
  /-- Controller state (R22). -/
  fsm        : Fsm
  /-- Edges the BUSY phase still lasts before the result edge (R23). -/
  cnt        : Nat
  /-- The captured command word (R24). -/
  cmdQ       : CmdWord
  /-- The captured payload (R24). -/
  payQ       : Bus
  /-- The response registers (R25). -/
  rspStatusQ : StatusCode
  rspFlagsQ  : Flags
  rspDataQ   : Bus
  /-- The model's own: power has come and no reset edge has followed yet, so every element and every output is unspecified
  and the host must not offer a command (70_reset_and_hazards.md R182, log entry 13). -/
  awaitsReset : Bool
  /-- The model's own: what the outside world does at the coming steps, the next first (log entry 2). -/
  script     : List Stimulus
  /-- The model's own: how many steps have been taken; the index of the free draws (log entry 3). -/
  tick       : Nat
deriving DecidableEq, Repr

/-- Why a step stops with a fault. The block itself has no fault state (60_exceptions.md R150). -/
inductive Fault where
  /-- A response with a reserved status code 5, 6 or 7 was to be written: I5 treats it as a fault and says the block
  never produces one. Raised by `State.complete`; safe (the model stops), and no command reaches it. -/
  | reservedStatus
deriving DecidableEq, Repr

/-- Why a step is refused. -/
inductive Refusal where
  /-- Raised by an arm of `exec` for an instruction that has no meaning yet; safe. No arm raises it. -/
  | notModelled (mnemonic : String)
  /-- An input port that the edge reads has an unknown or floating level: the spec gives it no meaning and a model refuses
  the run (R185, I7). Raised by the clock edge; safe. -/
  | undefinedInput
  /-- A command is offered between power-up and the first reset edge: R182 forbids it, and a model gives no move to a host
  that breaks a duty (R193). Raised by the clock edge; safe. -/
  | offerBeforeReset
deriving DecidableEq, Repr

/-- The machine right after reset: `fsm` is IDLE (R38). R38 leaves every other element unspecified; the model names zero
for each (DESIGN CHOICE, unsafe, log entry 1). Nothing is placed on the input ports (log entry 2). A reset EDGE inside a
run draws free values instead. -/
def State.reset : State where
  fsm := .idle
  cnt := 0
  cmdQ := 0
  payQ := 0
  rspStatusQ := 0
  rspFlagsQ := 0
  rspDataQ := 0
  awaitsReset := false
  script := []
  tick := 0

end Sys2Proof.Machine
end

