-- ==== Sys2Proof/Machine/Ops.lean ====
section
/-! DEFINITION. The operations on the state that the edges of 10_state.md and the commands share: responses, the error
response (the block's only way to report a failure, 60_exceptions.md), the register updates of each edge, the outputs,
and what the outside world does next. -/

namespace Sys2Proof.Machine

/-- The encoding of `fsm` in 2 bits (R22). -/
def Fsm.code : Fsm → BitVec 2
  | .idle => 0
  | .busy => 1
  | .resp => 2

/-- The controller state with a given encoding; the encoding 3 has none (R22, I8). -/
def Fsm.ofFin : Fin 3 → Fsm
  | 0 => .idle
  | 1 => .busy
  | 2 => .resp

/-- The status code on `rsp_status` (R151). -/
def Status.code : Status → StatusCode
  | .ok          => 0
  | .illegalCmd  => 1
  | .wrongLength => 2
  | .invalidChar => 3
  | .badIndex    => 4

/-- The status codes 5, 6 and 7, which are reserved (R151, I5). -/
def reservedStatus (c : StatusCode) : Bool := decide (5 ≤ c.toNat)

/-- The response of a command that succeeds (R151). -/
def okResponse (flags : Flags) (data : Bus) : Response := ⟨Status.ok.code, flags, data⟩

/-- The response of a command that fails: its status, flags 0 and data 0. It stands in the place of a trap: nothing is
saved, no mode changes and nothing is redirected (R150, R156, R159). -/
def errorResponse (st : Status) : Response := ⟨st.code, 0, 0⟩

/-- `respond(status, flags, data)`: the three response registers are written together (R25). -/
def State.respond (s : State) (r : Response) : State :=
  { s with rspStatusQ := r.status, rspFlagsQ := r.flags, rspDataQ := r.data }

/-- The state after a result edge: the response is written and `fsm` becomes RESP (R30). -/
def State.present (s : State) (r : Response) : State := { s.respond r with fsm := .resp }

/-- The end of a result edge: the response is presented (R30). A reserved status code would be a fault (I5); no command
gives one. -/
def State.complete (s : State) (r : Response) : Host.Outcome State Fault Refusal :=
  if reservedStatus r.status then .fault .reservedStatus else .next (s.present r)

/-- The response that the response registers hold (R25). -/
def State.response (s : State) : Response := ⟨s.rspStatusQ, s.rspFlagsQ, s.rspDataQ⟩

/-- The acceptance edge: word and payload are captured together, `cnt <- LAT - 1`, `fsm <- BUSY` (R28). -/
def State.accept (lat : Nat) (word : CmdWord) (payload : Bus) (s : State) : State :=
  { s with cmdQ := word, payQ := payload, cnt := lat - 1, fsm := .busy }

/-- The busy edge: `cnt <- cnt - 1` and nothing else (R29). -/
def State.countDown (s : State) : State := { s with cnt := s.cnt - 1 }

/-- The consumption edge: `fsm <- IDLE`; the response registers keep their values (R32). -/
def State.consume (s : State) : State := { s with fsm := .idle }

/-- Every state element but `fsm` at a free value (R38, R182); `cnt` stays a number in 0..LAT-1 (R23). -/
def State.scramble (lat : Nat) (s : State) : State :=
  { s with
    cnt := Config.freeCnt s.tick % lat
    cmdQ := Config.freeCmdQ s.tick
    payQ := Config.freePayQ s.tick
    rspStatusQ := Config.freeStatusQ s.tick
    rspFlagsQ := Config.freeFlagsQ s.tick
    rspDataQ := Config.freeDataQ s.tick }

/-- The reset edge: `fsm <- IDLE` and every other element unspecified, a free value (R180, R38, I2). From here on the host
may offer commands (R182, R183). -/
def State.resetEdge (lat : Nat) (s : State) : State := { s.scramble lat with fsm := .idle, awaitsReset := false }

/-- After power-up and before the first reset edge every element, `fsm` included, is unspecified (R182, R167, I9). -/
def State.powerUp (lat : Nat) (s : State) : State :=
  { s.scramble lat with fsm := Fsm.ofFin (Config.freeFsm s.tick), awaitsReset := true }

/-- The response registers are what the response ports show: in RESP, once a reset edge has come (R27, R182). -/
def State.presents (s : State) : Bool := s.fsm == .resp && !s.awaitsReset

/-- The output ports as functions of the state (R27). While `rsp_valid` is 0 the response ports show a free draw of the
cycle (I3), and before the first reset edge after power-up every output does (R182, I9). -/
def outputs (s : State) : Outputs where
  cmdReady  := if s.awaitsReset then Config.portReady s.tick else s.fsm == .idle
  rspValid  := if s.awaitsReset then Config.portValid s.tick else s.fsm == .resp
  rspStatus := if s.presents then s.rspStatusQ else Config.portStatus s.tick
  rspFlags  := if s.presents then s.rspFlagsQ else Config.portFlags s.tick
  rspData   := if s.presents then s.rspDataQ else Config.portData s.tick

/-- What a host with defined inputs (R185) drives at step t when the script says nothing about it: free levels. -/
def freePins (t : Nat) : Pins where
  rst        := some (Config.hostRst t)
  cmdValid   := some (Config.hostCmdValid t)
  cmdWord    := some (Config.hostCmdWord t)
  cmdPayload := some (Config.hostCmdPayload t)
  rspReady   := some (Config.hostRspReady t)

/-- Levels that ask nothing of the block: no reset, no command offered, no response taken (R33). -/
def quietPins : Pins where
  rst        := some false
  cmdValid   := some false
  cmdWord    := some 0
  cmdPayload := some 0
  rspReady   := some false

/-- What the outside world does at the next step: the head of the script, and free levels when the script is empty. -/
def State.stimulus (s : State) : Stimulus :=
  match s.script with
  | []     => .edge (freePins s.tick)
  | x :: _ => x

/-- The model's own bookkeeping of a step: the stimulus is used up and the step counted. -/
def State.advance (s : State) : State := { s with script := s.script.tail, tick := s.tick + 1 }

/-- The state with x as what the outside world does at the next step. -/
def State.withStimulus (s : State) (x : Stimulus) : State := { s with script := x :: s.script.tail }

end Sys2Proof.Machine
end

