-- ==== Sys2Proof/Machine/DecodeString.lean ====
section
/-! DEFINITION. DECODE and DECODE.S, the base62 decoder (41_decode.md). -/

namespace Sys2Proof.Machine

/-- `bad` of R100: some character of the 22 has valid = 0 in the reverse-lookup ROM (R102, R107). -/
def hasNonAlpha (p : Bus) : Bool := (List.range 22).any fun q => !rlutValid (chr p q)

/-- `lsum`: positions 0, 2, …, 20, position 2k weighing 62^k (R104). -/
def lowSum (p : Bus) : Nat := weightedSum fun k => (rlutDigit (chr p (2 * k))).toNat

/-- `hsum`: positions 21, 19, …, 1, position 21 - 2k weighing 62^k (R105). -/
def highSum (p : Bus) : Nat := weightedSum fun k => (rlutDigit (chr p (21 - 2 * k))).toNat

/-- The identifier of 22 characters: each sum mod 2^64 (R106), put together as `{high, low}` (R108). -/
def decodeIdent (p : Bus) : Ident := joinHalves (BitVec.ofNat 64 (highSum p)) (BitVec.ofNat 64 (lowSum p))

/-- `Decode(S, LEN, p)` of R100: the length first (R101), then the characters when S = 1 (R103), else the identifier with
its flags (R106 to R108). -/
def decodeResponse (strict : Bool) (len : Byte) (p : Bus) : Response :=
  if len ≠ 22 then errorResponse .wrongLength
  else if strict && hasNonAlpha p then errorResponse .invalidChar
  else okResponse (packFlags (hasNonAlpha p) (overflows (highSum p)) (overflows (lowSum p)))
    ((decodeIdent p).setWidth 176)

/-- DECODE (S = 0) and DECODE.S (S = 1) at the result edge (R100, R30). -/
def execDecode (strict : Bool) (len : Byte) (s : State) : Host.Outcome State Fault Refusal :=
  s.complete (decodeResponse strict len s.payQ)

end Sys2Proof.Machine
end

