-- ==== Sys2Proof/Machine/Encode.lean ====
section
/-! DEFINITION. ENCODE, the base62 encoder (40_encode.md). -/

namespace Sys2Proof.Machine

/-- One turn of the loop of R80: digit k of low goes to position 2k and digit k of high to position 21 - 2k (R83), each
through the alphabet ROM `rom` (R84). -/
def encodeDigit (rom : BitVec 6 → Byte) (low high : Nat) (out : Bus) (k : Nat) : Bus :=
  setChr (setChr out (2 * k) (rom (BitVec.ofNat 6 (digit low k)))) (21 - 2 * k) (rom (BitVec.ofNat 6 (digit high k)))

/-- The 22 characters of an identifier (R80 to R84), read through the alphabet ROM `rom`; the ROM is an argument so that
one can say which of its words are read (R42, R48). -/
def encodeChars (rom : BitVec 6 → Byte) (id : Ident) : Bus :=
  (List.range 11).foldl (encodeDigit rom (lowHalf id).toNat (highHalf id).toNat) 0

/-- `Encode(p)` of R80: always OK with flags 0 (R85). -/
def encodeResponse (p : Bus) : Response := okResponse 0 (encodeChars alpha (identOf p))

/-- ENCODE at the result edge (R80, R30). -/
def execEncode (s : State) : Host.Outcome State Fault Refusal := s.complete (encodeResponse s.payQ)

end Sys2Proof.Machine
end

