-- ==== Sys2Proof/Machine/RomRead.lean ====
section
/-! DEFINITION. ALPHA_RD and RLUT_RD, the ROM reads (42_rom_read.md). -/

namespace Sys2Proof.Machine

/-- `AlphaRd(IDX)` of R130: BAD_INDEX from 62 on, before the ROM `rom` is read (R42), else its word. -/
def alphaRdResponse (rom : BitVec 6 → Byte) (idx : Byte) : Response :=
  if 62 ≤ idx.toNat then errorResponse .badIndex
  else okResponse 0 ((rom (idx.setWidth 6)).setWidth 176)

/-- `RlutRd(CODE)` of R131: the digit, with NONALPHA when the code is outside the alphabet; always OK. -/
def rlutRdResponse (code : Byte) : Response :=
  okResponse (packFlags (!rlutValid code) false false) ((rlutDigit code).setWidth 176)

/-- ALPHA_RD at the result edge (R130, R30); the payload is ignored. -/
def execAlphaRd (idx : Byte) (s : State) : Host.Outcome State Fault Refusal := s.complete (alphaRdResponse alpha idx)

/-- RLUT_RD at the result edge (R131, R30); the payload is ignored. -/
def execRlutRd (code : Byte) (s : State) : Host.Outcome State Fault Refusal := s.complete (rlutRdResponse code)

end Sys2Proof.Machine
end

