-- ==== Sys2Proof/Machine/Dispatch.lean ====
section
/-! DEFINITION. What each command does at its result edge: one arm for each constructor of `Instr`. -/

namespace Sys2Proof.Machine

def exec (i : Instr) (s : State) : Host.Outcome State Fault Refusal :=
  match i with
  | .encode => Sys2Proof.Machine.execEncode s
  | .decode strict len => Sys2Proof.Machine.execDecode strict len s
  | .alphaRd idx => Sys2Proof.Machine.execAlphaRd idx s
  | .rlutRd code => Sys2Proof.Machine.execRlutRd code s

end Sys2Proof.Machine
end

