-- ==== Sys2Proof/Machine/Cycle.lean ====
section
/-! DEFINITION. One rising edge of `clk` (10_state.md R28 to R33, 70_reset_and_hazards.md R180), and the pure function
`Execute` of 30_encoding.md R70. -/

namespace Sys2Proof.Machine

/-- The response to an illegal command word (R68, R152); the payload is not read. -/
def illegalResponse : Response := errorResponse .illegalCmd

/-- `Execute(w, p)`, the dispatch of R70 written as the rule writes it. -/
def execute (w : CmdWord) (p : Bus) : Response :=
  if w &&& 0xFFFF = 0x0001 then encodeResponse p
  else if w &&& 0x00EF = 0x0002 then decodeResponse (strictField w) (argField w) p
  else if w &&& 0x00FF = 0x0003 then alphaRdResponse alpha (argField w)
  else if w &&& 0x00FF = 0x0004 then rlutRdResponse (argField w)
  else illegalResponse

/-- The result edge (R30): the captured word is decoded and its command runs on the captured payload; an illegal word is
answered ILLEGAL_CMD (R68). -/
def resultEdge (s : State) : Host.Outcome State Fault Refusal :=
  match decodeWord s.cmdQ with
  | .ok i    => exec i s
  | .error _ => s.complete illegalResponse

/-- An edge in IDLE: the command that is offered is accepted (R28), else nothing changes (R33). Word and payload are read
only here, and must be defined (R185). -/
def idleEdge (lat : Nat) (cmdValid : Bool) (p : Pins) (s : State) : Host.Outcome State Fault Refusal :=
  if cmdValid then
    match p.cmdWord, p.cmdPayload with
    | some w, some d => .next (s.accept lat w d)
    | _, _           => .refused .undefinedInput
  else .next s

/-- An edge in BUSY: a busy edge while `cnt > 0` (R29), else the result edge (R30). No input port is read. -/
def busyEdge (s : State) : Host.Outcome State Fault Refusal :=
  if 0 < s.cnt then .next s.countDown else resultEdge s

/-- An edge in RESP: the host takes the response (R32), else nothing changes (R33). -/
def respEdge (rspReady : Bool) (s : State) : Host.Outcome State Fault Refusal :=
  if rspReady then .next s.consume else .next s

/-- An edge without a reset before the first reset edge after power-up: a host that offers a command breaks its duty and
gets no move (R182, R193), else the elements are as unspecified after the edge as before it (R182, I9). -/
def awaitingEdge (lat : Nat) (cmdValid : Bool) (s : State) : Host.Outcome State Fault Refusal :=
  if cmdValid then .refused .offerBeforeReset else .next (s.powerUp lat)

/-- One rising edge of `clk`: reset wins (R180), then the wait for the first reset (R182), then the rule of the controller
state (R28 to R33). `rst`, `cmd_valid` and `rsp_ready` must be defined at every edge (R185). -/
def clockEdge (lat : Nat) (p : Pins) (s : State) : Host.Outcome State Fault Refusal :=
  match p.rst, p.cmdValid, p.rspReady with
  | some rst, some cmdValid, some rspReady =>
    if rst then .next (s.resetEdge lat)
    else if s.awaitsReset then awaitingEdge lat cmdValid s
    else
      match s.fsm with
      | .idle => idleEdge lat cmdValid p s
      | .busy => busyEdge s
      | .resp => respEdge rspReady s
  | _, _, _ => .refused .undefinedInput

/-- One step for a given latency: what the outside world does next happens, a rising edge or a loss and return of
power (R167, R182). -/
def cycle (lat : Nat) (s : State) : Host.Outcome State Fault Refusal :=
  match s.stimulus with
  | .edge p     => clockEdge lat p s.advance
  | .powerCycle => .next (s.advance.powerUp lat)

/-- The state about to take the result edge of command word w: a reset edge has come (R182), the word is captured (R24), the
BUSY phase is over (R23) and the host asks nothing at the next edge. -/
def State.atResultEdge (s : State) (w : CmdWord) : State :=
  { s.withStimulus (.edge quietPins) with fsm := .busy, cnt := 0, cmdQ := w, awaitsReset := false }

end Sys2Proof.Machine
end

