-- ==== Sys2Proof/Machine/Step.lean ====
section
/-! DEFINITION. The step of the machine, and the state in which a given command word is the next to run. -/

namespace Sys2Proof.Machine

/-- One step, at the latency of the implementation (00_scope.md R8). -/
def step (s : State) : Host.Outcome State Fault Refusal := cycle Config.lat s

/-- The state whose next step runs the command with these bits. The block fetches nothing (20_memory.md R53): a command
runs at the result edge, from the word captured at its acceptance edge (log entry 4). -/
def State.withFetchWord (s : State) (nbits w : Nat) : State := s.atResultEdge (BitVec.ofNat 16 (w % 2 ^ nbits))

end Sys2Proof.Machine
end

