-- ==== Sys2Proof/Machine/Assembler.lean ====
section
/-! DEFINITION. The command syntax that the spec offers to tools (30_encoding.md R71, R72): the assembler from one line's
syntax to the command on the channel, a reader of its text, and the disassembler; and the host's duty about LEN
(70_reset_and_hazards.md R184). Text is a list of 8-bit code units (00_scope.md R12). -/

namespace Sys2Proof.Machine

/-- The LEN a host sets for a string of n code units: saturated at 255, never n mod 256 (R184). -/
def hostLength (n : Nat) : Nat := min n 255

/-- A bus with the given bytes in lanes 0, 1, …, and zero above them (R46, R47). -/
def packLanes (bs : List Byte) : Bus := bs.foldr (fun b acc => (acc <<< 8) ||| b.setWidth 176) 0

/-- The payload of a string: its first 22 code units at positions 0.., the remaining bytes 0 (R71, R184). -/
def packString (s : List Byte) : Bus := packLanes (s.take 22)

/-- The command of a DECODE line (R71), with the LEN as written, whatever the length of the string is (log entry 14). -/
def decodeCommand (strict : Bool) (len : Nat) (s : List Byte) : Command :=
  ⟨encodeInstr (.decode strict (BitVec.ofNat 8 len)), packString s⟩

/-- The command of a well-formed line: the table of R71 and the expansions of R72. -/
def lineCommand : AsmLine → Command
  | .encode id              => ⟨encodeInstr .encode, BitVec.ofNat 176 id⟩
  | .encodeBytes bs         => ⟨encodeInstr .encode, packLanes (bs.map (BitVec.ofNat 8))⟩
  | .decode strict len s    => decodeCommand strict len s
  | .decodeString strict s  => decodeCommand strict (hostLength s.length) s
  | .alphaRd idx            => ⟨encodeInstr (.alphaRd (BitVec.ofNat 8 idx)), 0⟩
  | .rlutRd code            => ⟨encodeInstr (.rlutRd (BitVec.ofNat 8 code)), 0⟩
  | .illegal w              => ⟨BitVec.ofNat 16 w, 0⟩

/-- The assembler: it refuses a line that is not well formed (R71). -/
def assemble (l : AsmLine) : Option Command := if l.wellFormed then some (lineCommand l) else none

/-! ## Text (log entry 9 lists the points of the notation that R71 leaves open) -/

/-- The code units of a text of ASCII characters. -/
def ascii (s : String) : List Byte := s.toList.map fun c => BitVec.ofNat 8 c.toNat

/-- A token of a line. -/
inductive Token where
  | word (cs : List Byte)
  | str (cs : List Byte)
  | comma
deriving DecidableEq, Repr

/-- Where the reader of a line stands: between tokens, inside a word, or inside a string (what it has read, last unit first). -/
inductive LexMode where
  | gap
  | word (rev : List Byte)
  | str (rev : List Byte)
deriving DecidableEq, Repr

/-- The word read so far, put before the tokens that follow. -/
def LexMode.flush : LexMode → List Token → List Token
  | .word rev, ts => .word rev.reverse :: ts
  | _, ts         => ts

/-- The tokens of a line: words are parted by blanks, a comma stands alone, a string is in double quotes, and `;` outside a
string starts a comment (R71). None when a string is not closed. -/
def lexLine : LexMode → List Byte → Option (List Token)
  | .str _, [] => none
  | m, [] => some (m.flush [])
  | .str rev, c :: cs =>
    if c = 0x22 then (lexLine .gap cs).map (.str rev.reverse :: ·) else lexLine (.str (c :: rev)) cs
  | m, c :: cs =>
    if c = 0x20 ∨ c = 0x09 ∨ c = 0x0D then (lexLine .gap cs).map m.flush
    else if c = 0x3B then some (m.flush [])
    else if c = 0x2C then (lexLine .gap cs).map fun ts => m.flush (.comma :: ts)
    else if c = 0x22 then (lexLine (.str []) cs).map m.flush
    else
      match m with
      | .word rev => lexLine (.word (c :: rev)) cs
      | _         => lexLine (.word [c]) cs

/-- The value of a digit of the given base. -/
def digitValue (base : Nat) (c : Byte) : Option Nat :=
  let v :=
    if 0x30 ≤ c.toNat ∧ c.toNat ≤ 0x39 then c.toNat - 0x30
    else if 0x61 ≤ c.toNat ∧ c.toNat ≤ 0x66 then c.toNat - 0x57
    else if 0x41 ≤ c.toNat ∧ c.toNat ≤ 0x46 then c.toNat - 0x37
    else base
  if v < base then some v else none

/-- The number of a list of digits, the most significant first. -/
def digitsValue (base : Nat) : Nat → List Byte → Option Nat
  | acc, []      => some acc
  | acc, c :: cs => (digitValue base c).bind fun d => digitsValue base (acc * base + d) cs

/-- A number, decimal or `0x` hexadecimal (R71). -/
def parseNumber : List Byte → Option Nat
  | []                     => none
  | 0x30 :: 0x78 :: c :: cs => digitsValue 16 0 (c :: cs)
  | c :: cs                => digitsValue 10 0 (c :: cs)

/-- The operand list `n, n, ..., n`. -/
def parseNumbers : List Token → Option (List Nat)
  | [.word n]               => (parseNumber n).map ([·])
  | .word n :: .comma :: ts => (parseNumber n).bind fun v => (parseNumbers ts).map (v :: ·)
  | _                       => none

/-- The one number operand of ENCODE, ALPHA_RD, RLUT_RD and ILLEGAL. -/
def parseOne (mk : Nat → AsmLine) : List Token → Option AsmLine
  | [.word n] => (parseNumber n).map mk
  | _         => none

/-- The operands of DECODE and DECODE.S, with the length or without it (R71, R72). -/
def parseDecode (strict : Bool) : List Token → Option AsmLine
  | [.word n, .comma, .str s] => (parseNumber n).map fun len => .decode strict len s
  | [.str s]                  => some (.decodeString strict s)
  | _                         => none

/-- The line that a mnemonic and its operand tokens are (R71, R72). -/
def parseLine (m : List Byte) (ts : List Token) : Option AsmLine :=
  if m = ascii "ENCODE" then parseOne .encode ts
  else if m = ascii "ENCODE.B" then (parseNumbers ts).map .encodeBytes
  else if m = ascii "DECODE" then parseDecode false ts
  else if m = ascii "DECODE.S" then parseDecode true ts
  else if m = ascii "ALPHA_RD" then parseOne .alphaRd ts
  else if m = ascii "RLUT_RD" then parseOne .rlutRd ts
  else if m = ascii "ILLEGAL" then parseOne .illegal ts
  else none

/-- The commands of one line of text: none at all for a blank or comment line, refused if it is not in the syntax of R71
and R72 or not well formed. -/
def assembleLine (text : List Byte) : Option (List Command) :=
  match lexLine .gap text with
  | none                 => none
  | some []              => some []
  | some (.word m :: ts) => ((parseLine m ts).bind assemble).map ([·])
  | some _               => none

/-- The lines of a text, one command a line (R71). -/
def splitLines : List Byte → List (List Byte)
  | []      => [[]]
  | c :: cs =>
    if c = 0x0A then [] :: splitLines cs
    else
      match splitLines cs with
      | []      => [[c]]
      | l :: ls => (c :: l) :: ls

/-- The commands of a program text, in the order of its lines; none if a line is refused. -/
def assembleText (text : List Byte) : Option (List Command) :=
  (splitLines text).foldr (fun l acc => (assembleLine l).bind fun c => acc.map (c ++ ·)) (some [])

/-- A decimal number below 1000. -/
def decimalText (n : Nat) : List Byte :=
  let d (v : Nat) : Byte := BitVec.ofNat 8 (0x30 + v % 10)
  if n < 10 then [d n] else if n < 100 then [d (n / 10), d n] else [d (n / 100), d (n / 10), d n]

/-- A hexadecimal digit, as the spec writes words (0xFF02). -/
def hexDigitText (v : BitVec 4) : Byte :=
  if v.toNat < 10 then BitVec.ofNat 8 (0x30 + v.toNat) else BitVec.ofNat 8 (0x37 + v.toNat)

/-- A command word as `0xWWWW` (R72). -/
def wordText (w : CmdWord) : List Byte :=
  ascii "0x" ++ [hexDigitText (w.extractLsb' 12 4), hexDigitText (w.extractLsb' 8 4), hexDigitText (w.extractLsb' 4 4),
    hexDigitText (w.extractLsb' 0 4)]

/-- The disassembler: a legal word with its mnemonic and fields, an illegal word as `ILLEGAL 0xWWWW` (R72). -/
def disassemble (w : CmdWord) : List Byte :=
  match decodeWord w with
  | .ok .encode             => ascii "ENCODE"
  | .ok (.decode false len) => ascii "DECODE " ++ decimalText len.toNat
  | .ok (.decode true len)  => ascii "DECODE.S " ++ decimalText len.toNat
  | .ok (.alphaRd idx)      => ascii "ALPHA_RD " ++ decimalText idx.toNat
  | .ok (.rlutRd code)      => ascii "RLUT_RD " ++ decimalText code.toNat
  | .error _                => ascii "ILLEGAL " ++ wordText w

end Sys2Proof.Machine
end

