-- ==== Sys2Proof/Safety.lean ====
section
/-! DEFINITION. The terms in which claims about the machine are said: the invariant of the state, what crosses the two
channels at a step, the observation of a run (70_reset_and_hazards.md R192), and hosts (R185, R192, R193). -/

namespace Sys2Proof.Machine

/-! ## The invariant -/

/-- `cnt` is a number in 0..LAT-1 (10_state.md R23). -/
def State.cntInRange (s : State) : Prop := s.cnt < Config.lat

/-- A response that is presented is the result of the captured command (R30, 20_memory.md R51). Between a loss of power and
the next reset edge nothing is said of it: every element is unspecified there (R182). -/
def State.responseIsExecuted (s : State) : Prop := s.presents = true → s.response = execute s.cmdQ s.payQ

/-- The invariant that every step keeps, a reset edge and a loss of power included. -/
def State.Inv (s : State) : Prop := s.cntInRange ∧ s.responseIsExecuted

/-- What a command leaves alone at its result edge: every element but the response registers and `fsm`, which becomes RESP
(R30, 60_exceptions.md R150, R168). -/
def State.onlyResponds (s t : State) : Prop :=
  t.fsm = .resp ∧ t.cnt = s.cnt ∧ t.cmdQ = s.cmdQ ∧ t.payQ = s.payQ ∧
    t.awaitsReset = s.awaitsReset ∧ t.script = s.script ∧ t.tick = s.tick

/-! ## Levels at the ports -/

/-- The control inputs are defined, as R185 asks at every rising edge. -/
def Pins.controlsDefined (p : Pins) : Bool := p.rst.isSome && p.cmdValid.isSome && p.rspReady.isSome

/-- An edge with the control inputs defined and no reset. Word and payload may float: only an acceptance edge reads them
(R185, R186). -/
def Stimulus.runs : Stimulus → Bool
  | .edge p     => p.controlsDefined && p.rst == some false
  | .powerCycle => false

/-- An edge with the control inputs defined, no reset, and the response not taken (R187). -/
def Stimulus.stalls : Stimulus → Bool
  | .edge p     => p.controlsDefined && p.rst == some false && p.rspReady == some false
  | .powerCycle => false

/-- An edge with the control inputs defined, no reset, and no command offered. -/
def Stimulus.offersNothing : Stimulus → Bool
  | .edge p     => p.controlsDefined && p.rst == some false && p.cmdValid == some false
  | .powerCycle => false

/-! ## What crosses the channels at the next step -/

/-- The command accepted at the next step, if it is an acceptance edge (R28). None is before the first reset (R182). -/
def State.acceptedNow (s : State) : Option Command :=
  match s.stimulus with
  | .edge p =>
    match p.cmdWord, p.cmdPayload with
    | some w, some d =>
      if s.fsm = .idle ∧ s.awaitsReset = false ∧ p.rst = some false ∧ p.cmdValid = some true then some ⟨w, d⟩ else none
    | _, _ => none
  | .powerCycle => none

/-- The response taken at the next step, if it is a consumption edge (R32). None is presented before the first reset (R182). -/
def State.consumedNow (s : State) : Option Response :=
  match s.stimulus with
  | .edge p     => if s.presents = true ∧ p.rst = some false ∧ p.rspReady = some true then some s.response else none
  | .powerCycle => none

/-- The state after k steps. -/
def runSteps : Nat → State → Host.Outcome State Fault Refusal
  | 0, s => .next s
  | k + 1, s =>
    match step s with
    | .next t    => runSteps k t
    | .fault r   => .fault r
    | .refused r => .refused r

/-- The commands accepted in the next k steps, in order (R31). -/
def accepted : Nat → State → List Command
  | 0, _ => []
  | k + 1, s =>
    match step s with
    | .next t => s.acceptedNow.toList ++ accepted k t
    | _       => []

/-- The responses taken in the next k steps, in order: the observation of R192. -/
def observed : Nat → State → List Response
  | 0, _ => []
  | k + 1, s =>
    match step s with
    | .next t => s.consumedNow.toList ++ observed k t
    | _       => []

/-! ## Hosts -/

/-- The levels that offer a command (R193). -/
def offerPins (c : Command) : Pins := { quietPins with cmdValid := some true, cmdWord := some c.word, cmdPayload := some c.payload }

/-- The levels that take a response (R193). -/
def takePins : Pins := { quietPins with rspReady := some true }

/-- The levels of a reset edge (R180). -/
def resetPins : Pins := { quietPins with rst := some true }

/-- A host that serves one command: it offers the command, waits LAT edges, and takes the response (R188). -/
def serveCommand (c : Command) : List Stimulus :=
  .edge (offerPins c) :: (List.replicate Config.lat (.edge quietPins) ++ [.edge takePins])

/-- A run of R192: a reset edge, then the commands one after another. -/
def serveRun (cs : List Command) : List Stimulus := .edge resetPins :: cs.flatMap serveCommand

end Sys2Proof.Machine

/-- `Execute` of a command (30_encoding.md R70). -/
def Sys2Proof.Command.result (c : Command) : Sys2Proof.Machine.Response := Sys2Proof.Machine.execute c.word c.payload
end

