-- ==== Sys2Proof/Certificates/Slice0/Obligations.lean ====
section
/-! DEFINITION. The statements about the machine for the provers. Each docstring names the rule of spec/ it formalises. -/

open Sys2Proof Sys2Proof.Machine

/-! ## The commands -/

/-- ENCODE completes in every state: position 2k holds digit k of low and position 21 - 2k digit k of high, each through the
alphabet; status OK, flags 0; nothing else changes (40_encode.md R83, R84, R85). -/
def Obligations.EncodeInterleavesDigits : Prop :=
  ∀ s : State, ∃ t, exec .encode s = .next t ∧ s.onlyResponds t ∧ t.rspStatusQ = 0 ∧ t.rspFlagsQ = 0 ∧
    ∀ k ≤ 10,
      chr t.rspDataQ (2 * k) = alpha (BitVec.ofNat 6 ((s.payQ.extractLsb' 0 64).toNat / 62 ^ k % 62)) ∧
      chr t.rspDataQ (21 - 2 * k) = alpha (BitVec.ofNat 6 ((s.payQ.extractLsb' 64 64).toNat / 62 ^ k % 62))

/-- DECODE with LEN = 22, permissive or with every character in the alphabet, completes with the two weighted sums mod 2^64
and the flags (41_decode.md R104 to R108). -/
def Obligations.DecodeGivesTruncatedSums : Prop :=
  ∀ (s : State) (strict : Bool), (strict = false ∨ ∀ q < 22, rlutValid (chr s.payQ q) = true) →
    ∃ t, exec (.decode strict 22) s = .next t ∧ s.onlyResponds t ∧ t.rspStatusQ = 0 ∧
      t.rspDataQ.toNat =
        (∑ k ∈ Finset.range 11, (rlutDigit (chr s.payQ (21 - 2 * k))).toNat * 62 ^ k) % 2 ^ 64 * 2 ^ 64 +
          (∑ k ∈ Finset.range 11, (rlutDigit (chr s.payQ (2 * k))).toNat * 62 ^ k) % 2 ^ 64 ∧
      (ovfLo t.rspFlagsQ = true ↔ 2 ^ 64 ≤ ∑ k ∈ Finset.range 11, (rlutDigit (chr s.payQ (2 * k))).toNat * 62 ^ k) ∧
      (ovfHi t.rspFlagsQ = true ↔ 2 ^ 64 ≤ ∑ k ∈ Finset.range 11, (rlutDigit (chr s.payQ (21 - 2 * k))).toNat * 62 ^ k) ∧
      (nonAlpha t.rspFlagsQ = true ↔ ∃ q < 22, rlutValid (chr s.payQ q) = false) ∧
      t.rspFlagsQ.getLsbD 3 = false

/-- DECODE with another length than 22 is answered WRONG_LENGTH, whatever S and the payload are (41_decode.md R101,
60_exceptions.md R153). -/
def Obligations.DecodeWrongLength : Prop :=
  ∀ (s : State) (strict : Bool) (len : Byte), len ≠ 22 →
    ∃ t, exec (.decode strict len) s = .next t ∧ s.onlyResponds t ∧ t.response = ⟨2, 0, 0⟩

/-- DECODE.S with LEN = 22 and a character outside the alphabet is answered INVALID_CHAR, and a DECODE with S = 0 never is
(41_decode.md R103, 60_exceptions.md R154). -/
def Obligations.DecodeStrictRefusesCharacters : Prop :=
  (∀ s : State, (∃ q < 22, rlutValid (chr s.payQ q) = false) →
    ∃ t, exec (.decode true 22) s = .next t ∧ s.onlyResponds t ∧ t.response = ⟨3, 0, 0⟩) ∧
  ∀ (s : State) (len : Byte), ∃ t, exec (.decode false len) s = .next t ∧ t.rspStatusQ ≠ 3

/-- ALPHA_RD: its words, its character below 62, and BAD_INDEX from 62 on (42_rom_read.md R130, 60_exceptions.md R155). -/
def Obligations.AlphaRdReadsTheAlphabet : Prop :=
  (∀ w : CmdWord, w &&& 0x00FF = 0x0003 → decodeWord w = .ok (.alphaRd (w.extractLsb' 8 8))) ∧
  ∀ (s : State) (idx : Byte),
    ∃ t, exec (.alphaRd idx) s = .next t ∧ s.onlyResponds t ∧ t.rspFlagsQ = 0 ∧
      (62 ≤ idx.toNat → t.rspStatusQ = 4 ∧ t.rspDataQ = 0) ∧
      (idx.toNat < 62 → t.rspStatusQ = 0) ∧
      (idx.toNat < 10 → t.rspDataQ.toNat = 0x30 + idx.toNat) ∧
      (10 ≤ idx.toNat ∧ idx.toNat < 36 → t.rspDataQ.toNat = 0x61 + (idx.toNat - 10)) ∧
      (36 ≤ idx.toNat ∧ idx.toNat < 62 → t.rspDataQ.toNat = 0x41 + (idx.toNat - 36))

/-- RLUT_RD: its words, the digit of a code of the alphabet, and digit 0 with NONALPHA for every other code; always OK
(42_rom_read.md R131, 20_memory.md R44). -/
def Obligations.RlutRdReadsTheReverseLookup : Prop :=
  (∀ w : CmdWord, w &&& 0x00FF = 0x0004 → decodeWord w = .ok (.rlutRd (w.extractLsb' 8 8))) ∧
  ∀ (s : State) (code : Byte),
    ∃ t, exec (.rlutRd code) s = .next t ∧ s.onlyResponds t ∧ t.rspStatusQ = 0 ∧
      (if 0x30 ≤ code.toNat ∧ code.toNat ≤ 0x39 then t.rspFlagsQ = 0 ∧ t.rspDataQ.toNat = code.toNat - 0x30
       else if 0x61 ≤ code.toNat ∧ code.toNat ≤ 0x7A then t.rspFlagsQ = 0 ∧ t.rspDataQ.toNat = code.toNat - 0x57
       else if 0x41 ≤ code.toNat ∧ code.toNat ≤ 0x5A then t.rspFlagsQ = 0 ∧ t.rspDataQ.toNat = code.toNat - 0x1D
       else t.rspFlagsQ = 4 ∧ t.rspDataQ = 0)

/-- The response of a command depends on the command and the payload alone: whatever else two states hold, equal payloads
give equal responses (20_memory.md R51). -/
def Obligations.ResponseIgnoresTheRestOfTheState : Prop :=
  ∀ (i : Instr) (s s' : State), s.payQ = s'.payQ →
    ∃ t t', exec i s = .next t ∧ exec i s' = .next t' ∧ t.response = t'.response ∧ s.onlyResponds t ∧ s'.onlyResponds t'

/-! ## The ROMs -/

/-- The two ROMs agree with each other (20_memory.md R45). -/
def Obligations.RomsAgree : Prop :=
  (∀ d : BitVec 6, d.toNat < 62 → rlut (alpha d) = 1#1 ++ d) ∧
  (∀ c : Byte, rlutValid c = true → alpha (rlutDigit c) = c) ∧
  ∀ c : Byte, rlutValid c = false → rlutDigit c = 0

/-- ALPHA_RD d and then RLUT_RD of its data gives d back, and exactly 62 codes have NONALPHA = 0 (42_rom_read.md R132). -/
def Obligations.RomReadsChain : Prop :=
  (∀ (s u : State) (d : Byte), d.toNat < 62 →
    ∃ t v, exec (.alphaRd d) s = .next t ∧ exec (.rlutRd (t.rspDataQ.extractLsb' 0 8)) u = .next v ∧
      v.response = ⟨0, 0, d.setWidth 176⟩) ∧
  ((List.range 256).filter fun c => !nonAlpha (rlutRdResponse (BitVec.ofNat 8 c)).flags).length = 62

/-- Words 62 and 63 of the alphabet ROM are never read: with any other words there, ENCODE and ALPHA_RD answer the same
(20_memory.md R42). -/
def Obligations.SpareAlphabetWordsAreNotRead : Prop :=
  ∀ rom : BitVec 6 → Byte, (∀ d : BitVec 6, d.toNat < 62 → rom d = alpha d) →
    (∀ p : Bus, okResponse 0 (encodeChars rom (identOf p)) = execute 0x0001 p) ∧
    ∀ (idx : Byte) (p : Bus), alphaRdResponse rom idx = execute (idx ++ 0x03#8) p

/-! ## Properties of the encoder -/

/-- Every character ENCODE gives is in the alphabet (40_encode.md R87). -/
def Obligations.EncodeStaysInAlphabet : Prop :=
  ∀ s : State, ∃ t, exec .encode s = .next t ∧ ∀ q < 22, rlutValid (chr t.rspDataQ q) = true

/-- Two different identifiers give two different outputs (40_encode.md R88). -/
def Obligations.EncodeIsInjective : Prop :=
  ∀ s s' t t' : State, exec .encode s = .next t → exec .encode s' = .next t' →
    s.payQ.extractLsb' 0 128 ≠ s'.payQ.extractLsb' 0 128 → t.rspDataQ ≠ t'.rspDataQ

/-- The most significant digit of each half is at most 21, and it is 21 (the character 'l') exactly from 21 * 62^10 on
(40_encode.md R86). -/
def Obligations.TopCharacterIsAtMostL : Prop :=
  ∀ s : State, ∃ t, exec .encode s = .next t ∧
    (∀ q, q = 1 ∨ q = 20 →
      0x30 ≤ (chr t.rspDataQ q).toNat ∧ (chr t.rspDataQ q).toNat ≤ 0x39 ∨
        0x61 ≤ (chr t.rspDataQ q).toNat ∧ (chr t.rspDataQ q).toNat ≤ 0x6C) ∧
    (chr t.rspDataQ 1 = 0x6C ↔ 17625286683235144704 ≤ (s.payQ.extractLsb' 64 64).toNat) ∧
    (chr t.rspDataQ 20 = 0x6C ↔ 17625286683235144704 ≤ (s.payQ.extractLsb' 0 64).toNat)

/-- No digit of one half depends on any bit of the other (40_encode.md R81). -/
def Obligations.HalvesAreEncodedIndependently : Prop :=
  ∀ id id' : Ident,
    (id.extractLsb' 0 64 = id'.extractLsb' 0 64 →
      ∀ k ≤ 10, chr (encodeChars alpha id) (2 * k) = chr (encodeChars alpha id') (2 * k)) ∧
    (id.extractLsb' 64 64 = id'.extractLsb' 64 64 →
      ∀ k ≤ 10, chr (encodeChars alpha id) (21 - 2 * k) = chr (encodeChars alpha id') (21 - 2 * k))

/-- The loop of repeated division gives the digits `(v div 62^k) mod 62`, each below 62, and nothing is left of a 64-bit
value after the eleventh division (40_encode.md R82). -/
def Obligations.RepeatedDivisionGivesTheDigits : Prop :=
  ∀ v < 2 ^ 64, digitsByDivision 11 v = (List.range 11).map (fun k => v / 62 ^ k % 62) ∧
    (∀ d ∈ digitsByDivision 11 v, d < 62) ∧ v / 62 ^ 11 = 0

/-- The two halves are the little-endian readings of the identifier's bytes (20_memory.md R46). -/
def Obligations.HalvesAreLittleEndian : Prop :=
  ∀ id : Ident,
    (lowHalf id).toNat = ∑ i ∈ Finset.range 8, (byteOf id i).toNat * 256 ^ i ∧
    (highHalf id).toNat = ∑ i ∈ Finset.range 8, (byteOf id (8 + i)).toNat * 256 ^ i ∧
    id.toNat = (highHalf id).toNat * 2 ^ 64 + (lowHalf id).toNat

/-! ## Properties of the decoder -/

/-- The Horner form over a 64-bit register gives the truncated sum, and an exact sum fits in 66 bits (41_decode.md R109). -/
def Obligations.HornerGivesTheTruncatedSum : Prop :=
  ∀ g : Nat → Nat, (horner64 g).toNat = weightedSum g % 2 ^ 64 ∧ ((∀ k ≤ 10, g k < 62) → weightedSum g < 2 ^ 66)

/-- DECODE of what ENCODE gave, with either S, is OK with flags 0 and the identifier that was encoded (41_decode.md R111). -/
def Obligations.DecodeUndoesEncode : Prop :=
  ∀ (s t u : State) (strict : Bool), exec .encode s = .next t → u.payQ = t.rspDataQ →
    ∃ v, exec (.decode strict 22) u = .next v ∧ v.response = ⟨0, 0, (s.payQ.extractLsb' 0 128).setWidth 176⟩

/-- ENCODE of what an OK DECODE gave is the string itself exactly when the decode had flags 0 (41_decode.md R112). -/
def Obligations.EncodeUndoesDecodeIffFlagsZero : Prop :=
  ∀ (s t u : State) (strict : Bool), exec (.decode strict 22) s = .next t → t.rspStatusQ = 0 → u.payQ = t.rspDataQ →
    ∃ v, exec .encode u = .next v ∧ (v.rspDataQ = s.payQ ↔ t.rspFlagsQ = 0)

/-- Which strings fit in 64 bits: by the digit at the most significant position and the sum T of the other ten; and a zero
digit at any other position guarantees nothing (41_decode.md R113). -/
def Obligations.SumFitsByTopDigit : Prop :=
  (∀ p : Bus,
    (lowSum p < 2 ^ 64 ↔
      (rlutDigit (chr p 20)).toNat ≤ 20 ∨ (rlutDigit (chr p 20)).toNat = 21 ∧
        ∑ k ∈ Finset.range 10, (rlutDigit (chr p (2 * k))).toNat * 62 ^ k ≤ 821457390474406911) ∧
    (highSum p < 2 ^ 64 ↔
      (rlutDigit (chr p 1)).toNat ≤ 20 ∨ (rlutDigit (chr p 1)).toNat = 21 ∧
        ∑ k ∈ Finset.range 10, (rlutDigit (chr p (21 - 2 * k))).toNat * 62 ^ k ≤ 821457390474406911) ∧
    ∑ k ∈ Finset.range 10, (rlutDigit (chr p (2 * k))).toNat * 62 ^ k ≤ 839299365868340223 ∧
    ∑ k ∈ Finset.range 10, (rlutDigit (chr p (21 - 2 * k))).toNat * 62 ^ k ≤ 839299365868340223) ∧
  ∀ k < 10, (∃ p, rlutDigit (chr p (2 * k)) = 0 ∧ 2 ^ 64 ≤ lowSum p) ∧
    ∃ p, rlutDigit (chr p (21 - 2 * k)) = 0 ∧ 2 ^ 64 ≤ highSum p

/-- Strict and permissive decoding agree on what ENCODE gives; on a string with a character outside the alphabet the
permissive one is OK with NONALPHA and the strict one INVALID_CHAR (41_decode.md R114). -/
def Obligations.StrictAgreesOnEncoded : Prop :=
  (∀ s t u : State, exec .encode s = .next t → u.payQ = t.rspDataQ → exec (.decode true 22) u = exec (.decode false 22) u) ∧
  ∀ u : State, (∃ q < 22, rlutValid (chr u.payQ q) = false) →
    (∃ v, exec (.decode false 22) u = .next v ∧ v.rspStatusQ = 0 ∧ nonAlpha v.rspFlagsQ = true) ∧
    ∃ v, exec (.decode true 22) u = .next v ∧ v.rspStatusQ = 3

/-- A permissive decode reads a character outside the alphabet as '0': with '0' in its place the identifier and the OVF
flags are the same, and only NONALPHA differs (41_decode.md R115). -/
def Obligations.ForeignCharactersReadAsZero : Prop :=
  ∀ s s' : State, (∃ q < 22, rlutValid (chr s.payQ q) = false) →
    (∀ q < 22, chr s'.payQ q = if rlutValid (chr s.payQ q) then chr s.payQ q else 0x30) →
    ∃ t t', exec (.decode false 22) s = .next t ∧ exec (.decode false 22) s' = .next t' ∧
      t.rspStatusQ = t'.rspStatusQ ∧ t.rspDataQ = t'.rspDataQ ∧
      ovfLo t.rspFlagsQ = ovfLo t'.rspFlagsQ ∧ ovfHi t.rspFlagsQ = ovfHi t'.rspFlagsQ ∧
      nonAlpha t.rspFlagsQ = true ∧ nonAlpha t'.rspFlagsQ = false

/-! ## Responses -/

/-- Each status has exactly the cause of its row, in the order of priority, and no other status is produced
(60_exceptions.md R151 to R155, R157). -/
def Obligations.StatusNamesTheFirstCause : Prop :=
  ∀ (w : CmdWord) (p : Bus),
    ((execute w p).status = 1 ↔
      w ≠ 0x0001 ∧ w &&& 0x00EF ≠ 0x0002 ∧ w &&& 0x00FF ≠ 0x0003 ∧ w &&& 0x00FF ≠ 0x0004) ∧
    ((execute w p).status = 2 ↔ w &&& 0x00EF = 0x0002 ∧ w.extractLsb' 8 8 ≠ 22) ∧
    ((execute w p).status = 3 ↔
      w &&& 0x00EF = 0x0002 ∧ w.extractLsb' 8 8 = 22 ∧ w.getLsbD 4 = true ∧ ∃ q < 22, rlutValid (chr p q) = false) ∧
    ((execute w p).status = 4 ↔ w &&& 0x00FF = 0x0003 ∧ 62 ≤ (w.extractLsb' 8 8).toNat) ∧
    (execute w p).status.toNat ≤ 4

/-- A response whose status is not OK has flags 0 and data 0 (60_exceptions.md R156). -/
def Obligations.FailedResponseIsEmpty : Prop :=
  ∀ (w : CmdWord) (p : Bus), (execute w p).status ≠ 0 → (execute w p).flags = 0 ∧ (execute w p).data = 0

/-- Only the commands of its row set a flag, and flag bit 3 is always 0 (10_state.md section 3, R26). -/
def Obligations.FlagsAreSetByTheirCommandsOnly : Prop :=
  ∀ (w : CmdWord) (p : Bus),
    (ovfLo (execute w p).flags = true ∨ ovfHi (execute w p).flags = true → w &&& 0x00EF = 0x0002 ∧ (execute w p).status = 0) ∧
    (nonAlpha (execute w p).flags = true →
      w &&& 0x00EF = 0x0002 ∧ (execute w p).status = 0 ∨ w &&& 0x00FF = 0x0004) ∧
    (execute w p).flags.getLsbD 3 = false

/-- Payload bits that a command does not use have no effect (30_encoding.md R61). -/
def Obligations.UnusedPayloadIsIgnored : Prop :=
  ∀ p p' : Bus,
    (p.extractLsb' 0 128 = p'.extractLsb' 0 128 → execute 0x0001 p = execute 0x0001 p') ∧
    (∀ w : CmdWord, w &&& 0x00EF = 0x0002 → w.extractLsb' 8 8 ≠ 22 → execute w p = execute w p') ∧
    (∀ w : CmdWord, w &&& 0x00FF = 0x0003 ∨ w &&& 0x00FF = 0x0004 → execute w p = execute w p')

/-- Response bits that a command does not list are 0 (30_encoding.md section 1, R62). -/
def Obligations.UnlistedDataBitsAreZero : Prop :=
  ∀ (w : CmdWord) (p : Bus),
    (w &&& 0x00EF = 0x0002 → (execute w p).data.toNat < 2 ^ 128) ∧
    (w &&& 0x00FF = 0x0003 → (execute w p).data.toNat < 2 ^ 8) ∧
    (w &&& 0x00FF = 0x0004 → (execute w p).data.toNat < 2 ^ 6)

/-! ## Command words -/

/-- Decoding the word of a command gives the command back, with every operand (30_encoding.md R60, R66). -/
def Obligations.DecodeOfEncodedWord : Prop :=
  ∀ i : Instr, i.wellFormed = true → decodeWord (encodeInstr i) = .ok i

/-- A word that decodes is the word of the command it decodes to: no legal word has a second form (30_encoding.md R69, R66). -/
def Obligations.EncodeOfDecodedWord : Prop :=
  ∀ (w : CmdWord) (i : Instr), decodeWord w = .ok i → encodeInstr i = w

/-- Exactly one row of the opcode map, or none, selects a word, and the decoder gives the command of that row
(30_encoding.md R66). -/
def Obligations.AtMostOneRowSelects : Prop :=
  ∀ w : CmdWord,
    (opcodeMap.filter fun r => r.selects w).length ≤ 1 ∧
    (∀ i, decodeWord w = .ok i → opcodeMap.filter (fun r => r.selects w) = [i.row]) ∧
    (∀ e, decodeWord w = .error e → opcodeMap.filter (fun r => r.selects w) = [])

/-- An illegal word, exactly as R68 lists them, is answered ILLEGAL_CMD at its result edge, with flags 0 and data 0, and
changes nothing else (30_encoding.md R68, 60_exceptions.md R152). -/
def Obligations.IllegalWordIsAnswered : Prop :=
  (∀ w : CmdWord,
    (∃ e, decodeWord w = .error e) ↔
      (w.extractLsb' 0 4 = 0 ∨ 5 ≤ (w.extractLsb' 0 4).toNat ∨
        w.extractLsb' 0 4 = 1 ∧ w.extractLsb' 4 12 ≠ 0 ∨
        w.extractLsb' 0 4 = 2 ∧ w.extractLsb' 5 3 ≠ 0 ∨
        (w.extractLsb' 0 4 = 3 ∨ w.extractLsb' 0 4 = 4) ∧ w.extractLsb' 4 4 ≠ 0)) ∧
  ∀ (s : State) (p : Pins) (e : DecodeError), s.awaitsReset = false → s.stimulus = .edge p → p.controlsDefined = true →
    p.rst = some false → s.fsm = .busy → s.cnt = 0 → decodeWord s.cmdQ = .error e →
    ∃ t, step s = .next t ∧ s.advance.onlyResponds t ∧ t.response = ⟨1, 0, 0⟩

/-- Some words of the opcode map, written out from their fields, decode to their commands, and some neighbours do not. -/
def Obligations.WrittenOutWordsDecode : Prop :=
  decodeWord 0b0000000000000001 = .ok .encode ∧
  decodeWord 0b0001011000000010 = .ok (.decode false 22) ∧
  decodeWord 0b0001011000010010 = .ok (.decode true 22) ∧
  decodeWord 0b0010001100000011 = .ok (.alphaRd 35) ∧
  decodeWord 0b0101101000000100 = .ok (.rlutRd 0x5A) ∧
  decodeWord 0b0000000000010001 = .error .reservedBits ∧
  decodeWord 0b0000000000000101 = .error .reservedOpcode

/-! ## The clock edge

`s.awaitsReset = false` says that a reset edge has come since power-up. What the block does before it is the matter of
ResetRecoversFromPowerLoss, CommandBeforeTheFirstResetIsRefused and RefusedExactlyOnABrokenDuty. -/

/-- At a result edge the step runs the decoded command: step is exec, after the model's own bookkeeping of the stimulus
and the step count (10_state.md R30, 30_encoding.md R70). -/
def Obligations.StepRunsTheDecodedCommand : Prop :=
  ∀ (s : State) (p : Pins) (i : Instr), s.awaitsReset = false → s.stimulus = .edge p → p.controlsDefined = true →
    p.rst = some false → s.fsm = .busy → s.cnt = 0 → decodeWord s.cmdQ = .ok i → i.wellFormed = true →
    step s = exec i { s with script := s.script.tail, tick := s.tick + 1 }

/-- Every result edge performs `respond(Execute(cmd_q, pay_q))` and goes to RESP, and does nothing else (10_state.md R30,
30_encoding.md R70). -/
def Obligations.ResultEdgeRespondsWithExecute : Prop :=
  ∀ (s : State) (p : Pins), s.awaitsReset = false → s.stimulus = .edge p → p.controlsDefined = true →
    p.rst = some false → s.fsm = .busy → s.cnt = 0 →
    ∃ t, step s = .next t ∧ s.advance.onlyResponds t ∧ t.response = execute s.cmdQ s.payQ

/-- The acceptance edge (10_state.md R28). -/
def Obligations.AcceptanceCapturesTheCommand : Prop :=
  ∀ (s : State) (p : Pins) (w : CmdWord) (d : Bus), s.awaitsReset = false → s.stimulus = .edge p →
    p.controlsDefined = true → p.rst = some false → s.fsm = .idle → p.cmdValid = some true → p.cmdWord = some w →
    p.cmdPayload = some d →
    ∃ t, step s = .next t ∧ t.cmdQ = w ∧ t.payQ = d ∧ t.cnt = Config.lat - 1 ∧ t.fsm = .busy ∧ t.response = s.response ∧
      t.awaitsReset = false

/-- The busy edge (10_state.md R29). -/
def Obligations.BusyEdgeCountsDown : Prop :=
  ∀ (s : State) (p : Pins), s.awaitsReset = false → s.stimulus = .edge p → p.controlsDefined = true →
    p.rst = some false → s.fsm = .busy → 0 < s.cnt →
    ∃ t, step s = .next t ∧ t.cnt = s.cnt - 1 ∧ t.fsm = s.fsm ∧ t.cmdQ = s.cmdQ ∧ t.payQ = s.payQ ∧
      t.response = s.response ∧ t.awaitsReset = false

/-- The consumption edge: `fsm <- IDLE`, the registers stay, and no command is accepted, whatever is offered
(10_state.md R32). -/
def Obligations.ConsumptionReturnsToIdle : Prop :=
  ∀ (s : State) (p : Pins), s.awaitsReset = false → s.stimulus = .edge p → p.controlsDefined = true →
    p.rst = some false → s.fsm = .resp → p.rspReady = some true →
    ∃ t, step s = .next t ∧ t.fsm = .idle ∧ t.response = s.response ∧ t.cnt = s.cnt ∧ t.cmdQ = s.cmdQ ∧ t.payQ = s.payQ ∧
      t.awaitsReset = false

/-- Hold: IDLE with no command offered, or RESP with the response not taken, changes no state element (10_state.md R33). -/
def Obligations.HoldChangesNothing : Prop :=
  ∀ (s : State) (p : Pins), s.awaitsReset = false → s.stimulus = .edge p → p.controlsDefined = true →
    p.rst = some false → (s.fsm = .idle ∧ p.cmdValid = some false ∨ s.fsm = .resp ∧ p.rspReady = some false) →
    ∃ t, step s = .next t ∧ t.fsm = s.fsm ∧ t.cnt = s.cnt ∧ t.cmdQ = s.cmdQ ∧ t.payQ = s.payQ ∧ t.response = s.response ∧
      t.awaitsReset = false

/-- A reset edge goes to IDLE from every state, whatever the host offers or takes: no command is accepted and no response
taken (70_reset_and_hazards.md R180). -/
def Obligations.ResetEdgeGoesToIdle : Prop :=
  ∀ (s : State) (p : Pins), s.stimulus = .edge p → p.controlsDefined = true → p.rst = some true →
    s.acceptedNow = none ∧ s.consumedNow = none ∧ ∃ t, step s = .next t ∧ t.fsm = .idle ∧ t.awaitsReset = false

/-- After a reset edge `fsm` is IDLE: the state after reset and the one after every reset edge show `cmd_ready` = 1 and
`rsp_valid` = 0 (10_state.md section 7, R38). The other elements of State.reset are the model's choice (log entry 1) and
nothing is said of them. -/
def Obligations.ResetIsReadyForACommand : Prop :=
  State.reset.fsm = .idle ∧ (outputs State.reset).cmdReady = true ∧ (outputs State.reset).rspValid = false ∧
  ∀ (s : State) (p : Pins), s.stimulus = .edge p → p.controlsDefined = true → p.rst = some true →
    ∃ t, step s = .next t ∧ (outputs t).cmdReady = true ∧ (outputs t).rspValid = false

/-- A loss of power leaves no state that a claim may use, until a reset edge, however many edges without one come first:
then the block is in IDLE and ready for a command (70_reset_and_hazards.md R182, R183, 60_exceptions.md R167). -/
def Obligations.ResetRecoversFromPowerLoss : Prop :=
  ∀ (s : State) (xs : List Stimulus) (p : Pins) (rest : List Stimulus), s.script = .powerCycle :: (xs ++ .edge p :: rest) →
    (∀ x ∈ xs, x.offersNothing = true) → p.controlsDefined = true → p.rst = some true →
    ∃ t, runSteps (xs.length + 2) s = .next t ∧ t.fsm = .idle ∧ t.script = rest ∧ (outputs t).cmdReady = true ∧
      (outputs t).rspValid = false

/-- A host that offers a command after power-up and before any reset edge breaks its duty, and the model gives it no move:
the step is refused, however many edges come first (70_reset_and_hazards.md R182, R193). -/
def Obligations.CommandBeforeTheFirstResetIsRefused : Prop :=
  ∀ (s : State) (xs : List Stimulus) (p : Pins) (rest : List Stimulus), s.script = .powerCycle :: (xs ++ .edge p :: rest) →
    (∀ x ∈ xs, x.offersNothing = true) → p.controlsDefined = true → p.rst = some false → p.cmdValid = some true →
    runSteps (xs.length + 2) s = .refused .offerBeforeReset

/-- Once a reset edge has come, the outputs are functions of the state, and while `rsp_valid` is 1 the response ports show
the response registers (10_state.md section 4, R27). Before it every output is unspecified (R182). -/
def Obligations.OutputsFollowTheState : Prop :=
  ∀ s : State, s.awaitsReset = false →
    ((outputs s).cmdReady = true ↔ s.fsm = .idle) ∧ ((outputs s).rspValid = true ↔ s.fsm = .resp) ∧
    ((outputs s).rspValid = true →
      (outputs s).rspStatus = s.rspStatusQ ∧ (outputs s).rspFlags = s.rspFlagsQ ∧ (outputs s).rspData = s.rspDataQ)

/-- No step of any state ends in a fault (60_exceptions.md R150). -/
def Obligations.NoStepFaults : Prop := ∀ (s : State) (r : Fault), step s ≠ .fault r

/-- A step is refused exactly when the host breaks a duty that an edge can show: the edge reads an unknown or floating input
(R185; that the refusal is the model's answer follows 93_implementation_defined.md I7, and which inputs an edge reads is log
entry 8), or a command is offered after power-up and before any reset edge (70_reset_and_hazards.md R182, R193). -/
def Obligations.RefusedExactlyOnABrokenDuty : Prop :=
  ∀ s : State,
    (step s = .refused .undefinedInput ↔
      ∃ p, s.stimulus = .edge p ∧
        (p.controlsDefined = false ∨
          p.rst = some false ∧ s.awaitsReset = false ∧ s.fsm = .idle ∧ p.cmdValid = some true ∧
            (p.cmdWord = none ∨ p.cmdPayload = none))) ∧
    (step s = .refused .offerBeforeReset ↔
      ∃ p, s.stimulus = .edge p ∧ p.controlsDefined = true ∧ p.rst = some false ∧ s.awaitsReset = true ∧
        p.cmdValid = some true) ∧
    ∀ r, step s = .refused r → r = .undefinedInput ∨ r = .offerBeforeReset

/-! ## Many edges -/

/-- `cnt` stays in 0..LAT-1 at every step (10_state.md R23). That it is in this range after a reset edge and a loss of power
too is the model's inference (log entry 5). -/
def Obligations.CntStaysInRange : Prop :=
  ∀ s t : State, s.cntInRange → step s = .next t → t.cntInRange

/-- Every step keeps the invariant, a reset edge and a loss of power included: `cnt` is in range, and a response that is
presented is Execute of the captured word and payload. Between a loss of power and the next reset edge every element is
unspecified (70_reset_and_hazards.md R182) and the second part says nothing. That `cnt` is in 0..LAT-1 after a reset edge and
a loss of power too, where R38 and R182 leave it unspecified, is the model's inference (log entry 5). -/
def Obligations.EveryStepKeepsTheInvariant : Prop :=
  ∀ s t : State, s.Inv → step s = .next t → t.Inv

/-- The invariant holds right after reset. Its first part is about `cnt` = 0 there, the model's choice (log entry 1). -/
def Obligations.InvariantHoldsAtReset : Prop := State.reset.Inv

/-- A command accepted at one edge is still in flight for the LAT - 1 edges after it and has its response at the LAT-th,
whatever the host does in between without a reset; the response is Execute of the accepted word and payload
(70_reset_and_hazards.md R188, R191). -/
def Obligations.ResponseComesAfterLatEdges : Prop :=
  ∀ (s : State) (c : Command), s.acceptedNow = some c → Config.lat + 1 ≤ s.script.length →
    (∀ x ∈ s.script.take (Config.lat + 1), x.runs = true) →
    (∀ j, j < Config.lat → ∃ t, runSteps (j + 1) s = .next t ∧ t.fsm = .busy) ∧
    ∃ t, runSteps (Config.lat + 1) s = .next t ∧ t.fsm = .resp ∧ t.response = c.result

/-- Two acceptance edges are at least LAT + 2 edges apart: no command is accepted at any of the LAT + 1 edges that follow an
acceptance edge (70_reset_and_hazards.md R189). -/
def Obligations.AcceptancesAreLatPlusTwoApart : Prop :=
  ∀ (s t : State) (c : Command) (j : Nat), s.acceptedNow = some c → 0 < j → j < Config.lat + 2 → j ≤ s.script.length →
    (∀ x ∈ s.script.take j, x.runs = true) → runSteps j s = .next t → t.acceptedNow = none

/-- A host that does not take the response keeps the block in RESP, with the same outputs, for any number of edges; no
command is accepted meanwhile (10_state.md R33, 70_reset_and_hazards.md R187). -/
def Obligations.UntakenResponseStays : Prop :=
  ∀ (s : State) (k : Nat), s.awaitsReset = false → s.fsm = .resp → k ≤ s.script.length → (∀ x ∈ s.script.take k, x.stalls = true) →
    ∃ t, runSteps k s = .next t ∧ t.fsm = .resp ∧ outputs t = outputs s ∧ accepted k s = []

/-- A reset edge abandons the command in flight, and withdraws a response that is presented: `rsp_valid` is 0 after it and
stays 0 as long as the host offers nothing, and every response taken later belongs to a command accepted after the reset edge
(70_reset_and_hazards.md R181). -/
def Obligations.ResetAbandonsTheCommand : Prop :=
  ∀ (s : State) (p : Pins) (rest : List Stimulus) (k : Nat), s.script = .edge p :: rest → p.controlsDefined = true →
    p.rst = some true → k ≤ rest.length →
    ((∀ x ∈ rest.take k, x.offersNothing = true) →
      ∃ t, runSteps (k + 1) s = .next t ∧ (outputs t).rspValid = false ∧ observed (k + 1) s = []) ∧
    ((∀ x ∈ rest.take k, x.runs = true) →
      ∃ u, step s = .next u ∧ accepted (k + 1) s = accepted k u ∧
        observed (k + 1) s = ((accepted k u).map Command.result).take (observed (k + 1) s).length)

/-- From IDLE and without a reset, the responses taken are Execute of the commands accepted, in acceptance order, with at
most one command still in flight, also when word and payload float at edges that do not read them, and up to the edge of a
run that is refused (10_state.md R31, 20_memory.md R51). -/
def Obligations.ResponsesComeInAcceptanceOrder : Prop :=
  ∀ (s : State) (k : Nat), s.fsm = .idle → k ≤ s.script.length → (∀ x ∈ s.script.take k, x.runs = true) →
    observed k s = ((accepted k s).map Command.result).take (observed k s).length ∧
    (observed k s).length ≤ (accepted k s).length ∧ (accepted k s).length ≤ (observed k s).length + 1

/-- A run of R192, a reset edge and then commands served one after another, from any state: it observes Execute of each
command, in order, and ends in IDLE (70_reset_and_hazards.md R192). -/
def Obligations.ServedRunObservesEveryResult : Prop :=
  ∀ (s : State) (cs : List Command), s.script = serveRun cs →
    observed (serveRun cs).length s = cs.map Command.result ∧
    ∃ t, runSteps (serveRun cs).length s = .next t ∧ t.fsm = .idle

/-! ## The host side of the command set -/

/-- A host that decodes a string by the pseudo-instruction gets WRONG_LENGTH exactly when its length is not 22, with no
length wrapping to 22; with length 22 and S = 1 it may still get INVALID_CHAR (70_reset_and_hazards.md R184, 30_encoding.md
R72). -/
def Obligations.StringGetsWrongLengthIffNot22 : Prop :=
  ∀ (strict : Bool) (str : List Byte), ∃ c, assemble (.decodeString strict str) = some c ∧
    (c.word.extractLsb' 8 8).toNat = min str.length 255 ∧
    (∀ q < 22, chr c.payload q = str.getD q 0) ∧
    (c.result = ⟨2, 0, 0⟩ ↔ str.length ≠ 22)

/-- The assembler gives each line the command word and payload of the table of R71, and refuses a len, idx or code above 255
(30_encoding.md section 6, R71). That it refuses an id of 2^128 or more is the model's choice (log entry 9): R71 says only
that id is a 128-bit number. That it assembles a DECODE line whose len is the length of its string mod 256 is the model's
choice too (log entry 14): R184 forbids a host that LEN, and R71 refuses only a len above 255. -/
def Obligations.AssemblerFollowsTheTable : Prop :=
  (∀ id, assemble (.encode id) = if id < 2 ^ 128 then some ⟨0x0001, BitVec.ofNat 176 id⟩ else none) ∧
  (∀ bs : List Nat, bs.length = 16 → (∀ b ∈ bs, b < 256) →
    ∃ c, assemble (.encodeBytes bs) = some c ∧ c.word = 0x0001 ∧ ∀ i < 22, (chr c.payload i).toNat = bs.getD i 0) ∧
  (∀ (strict : Bool) (len : Nat) (str : List Byte) (c : Command), assemble (.decode strict len str) = some c →
    ∀ q < 22, chr c.payload q = str.getD q 0) ∧
  (∀ (len : Nat) (str : List Byte),
    (assemble (.decode false len str)).map Command.word =
      if len ≤ 255 then some (BitVec.ofNat 16 ((len <<< 8) ||| 0x0002)) else none) ∧
  (∀ (len : Nat) (str : List Byte),
    (assemble (.decode true len str)).map Command.word =
      if len ≤ 255 then some (BitVec.ofNat 16 ((len <<< 8) ||| 0x0012)) else none) ∧
  (∀ idx, assemble (.alphaRd idx) =
    if idx ≤ 255 then some ⟨BitVec.ofNat 16 ((idx <<< 8) ||| 0x0003), 0⟩ else none) ∧
  (∀ code, assemble (.rlutRd code) =
    if code ≤ 255 then some ⟨BitVec.ofNat 16 ((code <<< 8) ||| 0x0004), 0⟩ else none)
end

