-- ==== Sys2Proof/Laws/State.lean ====
section
/-! SUPPORT. What each state update does to each field: one lemma for a field and an update, true by `rfl`, so that a
proof need not unfold an update. -/

namespace Sys2Proof.Machine

variable (s : State)

/-! ### `State.respond` -/

@[simp] theorem State.respond_fsm (r : Response) : (s.respond r).fsm = s.fsm := rfl
@[simp] theorem State.respond_cnt (r : Response) : (s.respond r).cnt = s.cnt := rfl
@[simp] theorem State.respond_cmdQ (r : Response) : (s.respond r).cmdQ = s.cmdQ := rfl
@[simp] theorem State.respond_payQ (r : Response) : (s.respond r).payQ = s.payQ := rfl
@[simp] theorem State.respond_rspStatusQ (r : Response) : (s.respond r).rspStatusQ = r.status := rfl
@[simp] theorem State.respond_rspFlagsQ (r : Response) : (s.respond r).rspFlagsQ = r.flags := rfl
@[simp] theorem State.respond_rspDataQ (r : Response) : (s.respond r).rspDataQ = r.data := rfl
@[simp] theorem State.respond_awaitsReset (r : Response) : (s.respond r).awaitsReset = s.awaitsReset := rfl
@[simp] theorem State.respond_script (r : Response) : (s.respond r).script = s.script := rfl
@[simp] theorem State.respond_tick (r : Response) : (s.respond r).tick = s.tick := rfl

/-! ### `State.present` -/

@[simp] theorem State.present_fsm (r : Response) : (s.present r).fsm = .resp := rfl
@[simp] theorem State.present_cnt (r : Response) : (s.present r).cnt = s.cnt := rfl
@[simp] theorem State.present_cmdQ (r : Response) : (s.present r).cmdQ = s.cmdQ := rfl
@[simp] theorem State.present_payQ (r : Response) : (s.present r).payQ = s.payQ := rfl
@[simp] theorem State.present_rspStatusQ (r : Response) : (s.present r).rspStatusQ = r.status := rfl
@[simp] theorem State.present_rspFlagsQ (r : Response) : (s.present r).rspFlagsQ = r.flags := rfl
@[simp] theorem State.present_rspDataQ (r : Response) : (s.present r).rspDataQ = r.data := rfl
@[simp] theorem State.present_awaitsReset (r : Response) : (s.present r).awaitsReset = s.awaitsReset := rfl
@[simp] theorem State.present_script (r : Response) : (s.present r).script = s.script := rfl
@[simp] theorem State.present_tick (r : Response) : (s.present r).tick = s.tick := rfl

/-! ### `State.accept` -/

@[simp] theorem State.accept_fsm (lat : Nat) (w : CmdWord) (d : Bus) : (s.accept lat w d).fsm = .busy := rfl
@[simp] theorem State.accept_cnt (lat : Nat) (w : CmdWord) (d : Bus) : (s.accept lat w d).cnt = lat - 1 := rfl
@[simp] theorem State.accept_cmdQ (lat : Nat) (w : CmdWord) (d : Bus) : (s.accept lat w d).cmdQ = w := rfl
@[simp] theorem State.accept_payQ (lat : Nat) (w : CmdWord) (d : Bus) : (s.accept lat w d).payQ = d := rfl
@[simp] theorem State.accept_rspStatusQ (lat : Nat) (w : CmdWord) (d : Bus) : (s.accept lat w d).rspStatusQ = s.rspStatusQ := rfl
@[simp] theorem State.accept_rspFlagsQ (lat : Nat) (w : CmdWord) (d : Bus) : (s.accept lat w d).rspFlagsQ = s.rspFlagsQ := rfl
@[simp] theorem State.accept_rspDataQ (lat : Nat) (w : CmdWord) (d : Bus) : (s.accept lat w d).rspDataQ = s.rspDataQ := rfl
@[simp] theorem State.accept_awaitsReset (lat : Nat) (w : CmdWord) (d : Bus) : (s.accept lat w d).awaitsReset = s.awaitsReset := rfl
@[simp] theorem State.accept_script (lat : Nat) (w : CmdWord) (d : Bus) : (s.accept lat w d).script = s.script := rfl
@[simp] theorem State.accept_tick (lat : Nat) (w : CmdWord) (d : Bus) : (s.accept lat w d).tick = s.tick := rfl

/-! ### `State.countDown` -/

@[simp] theorem State.countDown_fsm : s.countDown.fsm = s.fsm := rfl
@[simp] theorem State.countDown_cnt : s.countDown.cnt = s.cnt - 1 := rfl
@[simp] theorem State.countDown_cmdQ : s.countDown.cmdQ = s.cmdQ := rfl
@[simp] theorem State.countDown_payQ : s.countDown.payQ = s.payQ := rfl
@[simp] theorem State.countDown_rspStatusQ : s.countDown.rspStatusQ = s.rspStatusQ := rfl
@[simp] theorem State.countDown_rspFlagsQ : s.countDown.rspFlagsQ = s.rspFlagsQ := rfl
@[simp] theorem State.countDown_rspDataQ : s.countDown.rspDataQ = s.rspDataQ := rfl
@[simp] theorem State.countDown_awaitsReset : s.countDown.awaitsReset = s.awaitsReset := rfl
@[simp] theorem State.countDown_script : s.countDown.script = s.script := rfl
@[simp] theorem State.countDown_tick : s.countDown.tick = s.tick := rfl

/-! ### `State.consume` -/

@[simp] theorem State.consume_fsm : s.consume.fsm = .idle := rfl
@[simp] theorem State.consume_cnt : s.consume.cnt = s.cnt := rfl
@[simp] theorem State.consume_cmdQ : s.consume.cmdQ = s.cmdQ := rfl
@[simp] theorem State.consume_payQ : s.consume.payQ = s.payQ := rfl
@[simp] theorem State.consume_rspStatusQ : s.consume.rspStatusQ = s.rspStatusQ := rfl
@[simp] theorem State.consume_rspFlagsQ : s.consume.rspFlagsQ = s.rspFlagsQ := rfl
@[simp] theorem State.consume_rspDataQ : s.consume.rspDataQ = s.rspDataQ := rfl
@[simp] theorem State.consume_awaitsReset : s.consume.awaitsReset = s.awaitsReset := rfl
@[simp] theorem State.consume_script : s.consume.script = s.script := rfl
@[simp] theorem State.consume_tick : s.consume.tick = s.tick := rfl

/-! ### `State.resetEdge` -/

@[simp] theorem State.resetEdge_fsm (lat : Nat) : (s.resetEdge lat).fsm = .idle := rfl
@[simp] theorem State.resetEdge_cnt (lat : Nat) : (s.resetEdge lat).cnt = Config.freeCnt s.tick % lat := rfl
@[simp] theorem State.resetEdge_cmdQ (lat : Nat) : (s.resetEdge lat).cmdQ = Config.freeCmdQ s.tick := rfl
@[simp] theorem State.resetEdge_payQ (lat : Nat) : (s.resetEdge lat).payQ = Config.freePayQ s.tick := rfl
@[simp] theorem State.resetEdge_rspStatusQ (lat : Nat) : (s.resetEdge lat).rspStatusQ = Config.freeStatusQ s.tick := rfl
@[simp] theorem State.resetEdge_rspFlagsQ (lat : Nat) : (s.resetEdge lat).rspFlagsQ = Config.freeFlagsQ s.tick := rfl
@[simp] theorem State.resetEdge_rspDataQ (lat : Nat) : (s.resetEdge lat).rspDataQ = Config.freeDataQ s.tick := rfl
@[simp] theorem State.resetEdge_awaitsReset (lat : Nat) : (s.resetEdge lat).awaitsReset = false := rfl
@[simp] theorem State.resetEdge_script (lat : Nat) : (s.resetEdge lat).script = s.script := rfl
@[simp] theorem State.resetEdge_tick (lat : Nat) : (s.resetEdge lat).tick = s.tick := rfl

/-! ### `State.powerUp` -/

@[simp] theorem State.powerUp_fsm (lat : Nat) : (s.powerUp lat).fsm = Fsm.ofFin (Config.freeFsm s.tick) := rfl
@[simp] theorem State.powerUp_cnt (lat : Nat) : (s.powerUp lat).cnt = Config.freeCnt s.tick % lat := rfl
@[simp] theorem State.powerUp_cmdQ (lat : Nat) : (s.powerUp lat).cmdQ = Config.freeCmdQ s.tick := rfl
@[simp] theorem State.powerUp_payQ (lat : Nat) : (s.powerUp lat).payQ = Config.freePayQ s.tick := rfl
@[simp] theorem State.powerUp_rspStatusQ (lat : Nat) : (s.powerUp lat).rspStatusQ = Config.freeStatusQ s.tick := rfl
@[simp] theorem State.powerUp_rspFlagsQ (lat : Nat) : (s.powerUp lat).rspFlagsQ = Config.freeFlagsQ s.tick := rfl
@[simp] theorem State.powerUp_rspDataQ (lat : Nat) : (s.powerUp lat).rspDataQ = Config.freeDataQ s.tick := rfl
@[simp] theorem State.powerUp_awaitsReset (lat : Nat) : (s.powerUp lat).awaitsReset = true := rfl
@[simp] theorem State.powerUp_script (lat : Nat) : (s.powerUp lat).script = s.script := rfl
@[simp] theorem State.powerUp_tick (lat : Nat) : (s.powerUp lat).tick = s.tick := rfl

/-! ### `State.advance` -/

@[simp] theorem State.advance_fsm : s.advance.fsm = s.fsm := rfl
@[simp] theorem State.advance_cnt : s.advance.cnt = s.cnt := rfl
@[simp] theorem State.advance_cmdQ : s.advance.cmdQ = s.cmdQ := rfl
@[simp] theorem State.advance_payQ : s.advance.payQ = s.payQ := rfl
@[simp] theorem State.advance_rspStatusQ : s.advance.rspStatusQ = s.rspStatusQ := rfl
@[simp] theorem State.advance_rspFlagsQ : s.advance.rspFlagsQ = s.rspFlagsQ := rfl
@[simp] theorem State.advance_rspDataQ : s.advance.rspDataQ = s.rspDataQ := rfl
@[simp] theorem State.advance_awaitsReset : s.advance.awaitsReset = s.awaitsReset := rfl
@[simp] theorem State.advance_script : s.advance.script = s.script.tail := rfl
@[simp] theorem State.advance_tick : s.advance.tick = s.tick + 1 := rfl

/-! ### `State.withStimulus` -/

@[simp] theorem State.withStimulus_fsm (x : Stimulus) : (s.withStimulus x).fsm = s.fsm := rfl
@[simp] theorem State.withStimulus_cnt (x : Stimulus) : (s.withStimulus x).cnt = s.cnt := rfl
@[simp] theorem State.withStimulus_cmdQ (x : Stimulus) : (s.withStimulus x).cmdQ = s.cmdQ := rfl
@[simp] theorem State.withStimulus_payQ (x : Stimulus) : (s.withStimulus x).payQ = s.payQ := rfl
@[simp] theorem State.withStimulus_rspStatusQ (x : Stimulus) : (s.withStimulus x).rspStatusQ = s.rspStatusQ := rfl
@[simp] theorem State.withStimulus_rspFlagsQ (x : Stimulus) : (s.withStimulus x).rspFlagsQ = s.rspFlagsQ := rfl
@[simp] theorem State.withStimulus_rspDataQ (x : Stimulus) : (s.withStimulus x).rspDataQ = s.rspDataQ := rfl
@[simp] theorem State.withStimulus_awaitsReset (x : Stimulus) : (s.withStimulus x).awaitsReset = s.awaitsReset := rfl
@[simp] theorem State.withStimulus_script (x : Stimulus) : (s.withStimulus x).script = x :: s.script.tail := rfl
@[simp] theorem State.withStimulus_tick (x : Stimulus) : (s.withStimulus x).tick = s.tick := rfl

/-! ### `State.atResultEdge` -/

@[simp] theorem State.atResultEdge_fsm (w : CmdWord) : (s.atResultEdge w).fsm = .busy := rfl
@[simp] theorem State.atResultEdge_cnt (w : CmdWord) : (s.atResultEdge w).cnt = 0 := rfl
@[simp] theorem State.atResultEdge_cmdQ (w : CmdWord) : (s.atResultEdge w).cmdQ = w := rfl
@[simp] theorem State.atResultEdge_payQ (w : CmdWord) : (s.atResultEdge w).payQ = s.payQ := rfl
@[simp] theorem State.atResultEdge_rspStatusQ (w : CmdWord) : (s.atResultEdge w).rspStatusQ = s.rspStatusQ := rfl
@[simp] theorem State.atResultEdge_rspFlagsQ (w : CmdWord) : (s.atResultEdge w).rspFlagsQ = s.rspFlagsQ := rfl
@[simp] theorem State.atResultEdge_rspDataQ (w : CmdWord) : (s.atResultEdge w).rspDataQ = s.rspDataQ := rfl
@[simp] theorem State.atResultEdge_awaitsReset (w : CmdWord) : (s.atResultEdge w).awaitsReset = false := rfl
@[simp] theorem State.atResultEdge_script (w : CmdWord) : (s.atResultEdge w).script = .edge quietPins :: s.script.tail := rfl
@[simp] theorem State.atResultEdge_tick (w : CmdWord) : (s.atResultEdge w).tick = s.tick := rfl

/-! ### `State.reset` -/

@[simp] theorem State.reset_fsm : State.reset.fsm = .idle := rfl
@[simp] theorem State.reset_cnt : State.reset.cnt = 0 := rfl
@[simp] theorem State.reset_cmdQ : State.reset.cmdQ = 0 := rfl
@[simp] theorem State.reset_payQ : State.reset.payQ = 0 := rfl
@[simp] theorem State.reset_rspStatusQ : State.reset.rspStatusQ = 0 := rfl
@[simp] theorem State.reset_rspFlagsQ : State.reset.rspFlagsQ = 0 := rfl
@[simp] theorem State.reset_rspDataQ : State.reset.rspDataQ = 0 := rfl
@[simp] theorem State.reset_awaitsReset : State.reset.awaitsReset = false := rfl
@[simp] theorem State.reset_script : State.reset.script = [] := rfl
@[simp] theorem State.reset_tick : State.reset.tick = 0 := rfl

/-! ### The response the registers hold, and the stimulus of a step -/

@[simp] theorem State.response_respond (r : Response) : (s.respond r).response = r := rfl
@[simp] theorem State.response_present (r : Response) : (s.present r).response = r := rfl
@[simp] theorem State.response_advance : s.advance.response = s.response := rfl
@[simp] theorem State.response_accept (lat : Nat) (w : CmdWord) (d : Bus) : (s.accept lat w d).response = s.response := rfl
@[simp] theorem State.response_countDown : s.countDown.response = s.response := rfl
@[simp] theorem State.response_consume : s.consume.response = s.response := rfl
@[simp] theorem State.response_withStimulus (x : Stimulus) : (s.withStimulus x).response = s.response := rfl
@[simp] theorem State.stimulus_withStimulus (x : Stimulus) : (s.withStimulus x).stimulus = x := rfl
@[simp] theorem State.stimulus_atResultEdge (w : CmdWord) : (s.atResultEdge w).stimulus = .edge quietPins := rfl

/-- The response ports show the response registers exactly in RESP, once a reset edge has come. -/
theorem State.presents_iff (s : State) : s.presents = true ↔ s.fsm = .resp ∧ s.awaitsReset = false := by
  simp [State.presents]

@[simp] theorem State.presents_present (r : Response) : (s.present r).presents = !s.awaitsReset := rfl
@[simp] theorem State.presents_advance : s.advance.presents = s.presents := rfl
@[simp] theorem State.presents_accept (lat : Nat) (w : CmdWord) (d : Bus) : (s.accept lat w d).presents = false := rfl
@[simp] theorem State.presents_countDown : s.countDown.presents = s.presents := rfl
@[simp] theorem State.presents_consume : s.consume.presents = false := rfl
@[simp] theorem State.presents_resetEdge (lat : Nat) : (s.resetEdge lat).presents = false := rfl
@[simp] theorem State.presents_powerUp (lat : Nat) : (s.powerUp lat).presents = false := by simp [State.presents]
@[simp] theorem State.presents_reset : State.reset.presents = false := rfl

theorem State.stimulus_of_script {s : State} {x : Stimulus} {xs : List Stimulus} (h : s.script = x :: xs) : s.stimulus = x := by
  simp [State.stimulus, h]

theorem State.stimulus_of_nil {s : State} (h : s.script = []) : s.stimulus = .edge (freePins s.tick) := by
  simp [State.stimulus, h]

end Sys2Proof.Machine
end

