-- ==== Sys2Proof/Laws/Ops.lean ====
section
/-! SUPPORT. The spec lemmas of the shared operations: what a completed command gives, and what each edge can do. -/

namespace Sys2Proof.Machine

/-! ### Responses -/

@[simp] theorem reservedStatus_code (st : Status) : reservedStatus st.code = false := by
  cases st <;> decide

@[simp] theorem errorResponse_status (st : Status) : (errorResponse st).status = st.code := rfl
@[simp] theorem errorResponse_flags (st : Status) : (errorResponse st).flags = 0 := rfl
@[simp] theorem errorResponse_data (st : Status) : (errorResponse st).data = 0 := rfl
@[simp] theorem okResponse_status (f : Flags) (d : Bus) : (okResponse f d).status = 0 := rfl
@[simp] theorem okResponse_flags (f : Flags) (d : Bus) : (okResponse f d).flags = f := rfl
@[simp] theorem okResponse_data (f : Flags) (d : Bus) : (okResponse f d).data = d := rfl

/-- Everything a completion can do: it presents the response, unless the status is reserved. -/
theorem complete_cases (s : State) (r : Response) :
    (reservedStatus r.status = false ∧ s.complete r = .next (s.present r)) ∨
      (reservedStatus r.status = true ∧ s.complete r = .fault .reservedStatus) := by
  cases h : reservedStatus r.status <;> simp [State.complete, h]

/-- A failing command completes: the error response is presented. -/
@[simp] theorem complete_errorResponse (s : State) (st : Status) :
    s.complete (errorResponse st) = .next (s.present (errorResponse st)) := by
  simp [State.complete]

/-- A succeeding command completes. -/
@[simp] theorem complete_okResponse (s : State) (f : Flags) (d : Bus) :
    s.complete (okResponse f d) = .next (s.present (okResponse f d)) := by
  simp [State.complete, reservedStatus]

/-! ### The edges -/

/-- Everything an edge in IDLE can do. -/
theorem idleEdge_cases (lat : Nat) (v : Bool) (p : Pins) (s : State) :
    (v = false ∧ idleEdge lat v p s = .next s) ∨
      (∃ w d, v = true ∧ p.cmdWord = some w ∧ p.cmdPayload = some d ∧ idleEdge lat v p s = .next (s.accept lat w d)) ∨
      (v = true ∧ (p.cmdWord = none ∨ p.cmdPayload = none) ∧ idleEdge lat v p s = .refused .undefinedInput) := by
  cases v with
  | false => simp [idleEdge]
  | true =>
    cases hw : p.cmdWord <;> cases hd : p.cmdPayload <;> simp [idleEdge, hw, hd]

/-- Everything an edge without a reset can do before the first reset edge. -/
theorem awaitingEdge_cases (lat : Nat) (v : Bool) (s : State) :
    (v = false ∧ awaitingEdge lat v s = .next (s.powerUp lat)) ∨
      (v = true ∧ awaitingEdge lat v s = .refused .offerBeforeReset) := by
  cases v <;> simp [awaitingEdge]

/-- Everything an edge in BUSY can do. -/
theorem busyEdge_cases (s : State) :
    (0 < s.cnt ∧ busyEdge s = .next s.countDown) ∨ (s.cnt = 0 ∧ busyEdge s = resultEdge s) := by
  rcases Nat.eq_zero_or_pos s.cnt with h | h
  · right; simp [busyEdge, h]
  · left; simp [busyEdge, h]

/-- Everything an edge in RESP can do. -/
theorem respEdge_cases (r : Bool) (s : State) :
    (r = true ∧ respEdge r s = .next s.consume) ∨ (r = false ∧ respEdge r s = .next s) := by
  cases r <;> simp [respEdge]

/-- Everything a result edge can do: the command runs, or the illegal word is answered. -/
theorem resultEdge_cases (s : State) :
    (∃ i, decodeWord s.cmdQ = .ok i ∧ resultEdge s = exec i s) ∨
      (∃ e, decodeWord s.cmdQ = .error e ∧ resultEdge s = .next (s.present illegalResponse)) := by
  cases h : decodeWord s.cmdQ with
  | ok i => left; exact ⟨i, rfl, by simp [resultEdge, h]⟩
  | error e => right; exact ⟨e, rfl, by simp [resultEdge, h, illegalResponse]⟩

/-- Everything a rising edge can do that answers a next state. -/
theorem clockEdge_next {lat : Nat} {p : Pins} {s t : State} (h : clockEdge lat p s = .next t) :
    (p.rst = some true ∧ t = s.resetEdge lat) ∨
      (p.rst = some false ∧ s.awaitsReset = true ∧ p.cmdValid = some false ∧ t = s.powerUp lat) ∨
      (p.rst = some false ∧ s.awaitsReset = false ∧ s.fsm = .idle ∧ p.cmdValid = some false ∧ t = s) ∨
      (∃ w d, p.rst = some false ∧ s.awaitsReset = false ∧ s.fsm = .idle ∧ p.cmdValid = some true ∧ p.cmdWord = some w ∧ p.cmdPayload = some d ∧
        t = s.accept lat w d) ∨
      (p.rst = some false ∧ s.awaitsReset = false ∧ s.fsm = .busy ∧ 0 < s.cnt ∧ t = s.countDown) ∨
      (p.rst = some false ∧ s.awaitsReset = false ∧ s.fsm = .busy ∧ s.cnt = 0 ∧ resultEdge s = .next t) ∨
      (p.rst = some false ∧ s.awaitsReset = false ∧ s.fsm = .resp ∧ p.rspReady = some true ∧ t = s.consume) ∨
      (p.rst = some false ∧ s.awaitsReset = false ∧ s.fsm = .resp ∧ p.rspReady = some false ∧ t = s) := by
  unfold clockEdge at h
  split at h
  case h_2 => cases h
  case h_1 rst v r h1 h2 h3 =>
    cases rst with
    | true =>
      simp only [if_true] at h
      cases h
      exact .inl ⟨h1, rfl⟩
    | false =>
      simp only [Bool.false_eq_true, if_false] at h
      cases ha : s.awaitsReset
      case true =>
        rw [ha, if_pos rfl] at h
        rcases awaitingEdge_cases lat v s with ⟨hv, he⟩ | ⟨_, he⟩
        · rw [he] at h; cases h; subst hv; exact .inr (.inl ⟨h1, rfl, h2, rfl⟩)
        · rw [he] at h; cases h
      rw [ha, if_neg Bool.false_ne_true] at h
      cases hf : s.fsm with
      | idle =>
        rw [hf] at h
        rcases idleEdge_cases lat v p s with ⟨hv, he⟩ | ⟨w, d, hv, hw, hd, he⟩ | ⟨hv, _, he⟩
        · rw [he] at h; cases h; subst hv; simp_all
        · rw [he] at h; cases h; subst hv; simp_all
        · rw [he] at h; cases h
      | busy =>
        rw [hf] at h
        rcases busyEdge_cases s with ⟨hc, he⟩ | ⟨hc, he⟩
        · rw [he] at h; cases h; simp_all
        · rw [he] at h; simp_all
      | resp =>
        rw [hf] at h
        rcases respEdge_cases r s with ⟨hr, he⟩ | ⟨hr, he⟩
        · rw [he] at h; cases h; subst hr; simp_all
        · rw [he] at h; cases h; subst hr; simp_all

/-- Everything a step can do that answers a next state: a rising edge, or a loss and return of power. -/
theorem cycle_next {lat : Nat} {s t : State} (h : cycle lat s = .next t) :
    (∃ p, s.stimulus = .edge p ∧ clockEdge lat p s.advance = .next t) ∨
      (s.stimulus = .powerCycle ∧ t = s.advance.powerUp lat) := by
  unfold cycle at h
  split at h
  case h_1 p hp => exact .inl ⟨p, hp, h⟩
  case h_2 hp => cases h; exact .inr ⟨hp, rfl⟩

/-- The step at an edge. -/
theorem cycle_of_edge {lat : Nat} {s : State} {p : Pins} (h : s.stimulus = .edge p) :
    cycle lat s = clockEdge lat p s.advance := by
  simp [cycle, h]

/-- The rising edge when no control input is unknown, there is no reset, and a reset edge has come. -/
theorem clockEdge_running {lat : Nat} {p : Pins} {s : State} {v r : Bool} (ha : s.awaitsReset = false)
    (h1 : p.rst = some false) (h2 : p.cmdValid = some v) (h3 : p.rspReady = some r) :
    clockEdge lat p s =
      match s.fsm with
      | .idle => idleEdge lat v p s
      | .busy => busyEdge s
      | .resp => respEdge r s := by
  cases h : s.fsm <;> simp [clockEdge, ha, h1, h2, h3, h]

end Sys2Proof.Machine
end

