-- ==== Sys2Proof/Laws/Commands.lean ====
section
/-! SUPPORT. The spec lemma of each meaning: what exec answers for each command, in every state. -/

namespace Sys2Proof.Machine

/-- ENCODE presents its response. -/
theorem exec_encode (s : State) : exec .encode s = .next (s.present (encodeResponse s.payQ)) := by
  simp [exec, execEncode, encodeResponse]

/-- DECODE and DECODE.S present their response, whichever of the three it is. -/
theorem exec_decode (strict : Bool) (len : Byte) (s : State) :
    exec (.decode strict len) s = .next (s.present (decodeResponse strict len s.payQ)) := by
  simp only [exec, execDecode, decodeResponse]
  split <;> [skip; split] <;> simp

/-- ALPHA_RD presents its response, the character or BAD_INDEX. -/
theorem exec_alphaRd (idx : Byte) (s : State) :
    exec (.alphaRd idx) s = .next (s.present (alphaRdResponse alpha idx)) := by
  simp only [exec, execAlphaRd, alphaRdResponse]
  split <;> simp

/-- RLUT_RD presents its response. -/
theorem exec_rlutRd (code : Byte) (s : State) : exec (.rlutRd code) s = .next (s.present (rlutRdResponse code)) := by
  simp [exec, execRlutRd, rlutRdResponse]

end Sys2Proof.Machine
end

