-- ==== Sys2Proof/Laws/Operands.lean ====
section
/-! SUPPORT. The spec lemmas of the operand operations: lanes, digits, weighted sums, ROM words. -/

namespace Sys2Proof.Machine

/-! ### Lanes -/

theorem getLsbD_chr (bus : Bus) (q j : Nat) : (chr bus q).getLsbD j = (decide (j < 8) && bus.getLsbD (8 * q + j)) := by
  simp [chr, BitVec.getLsbD_extractLsb']

theorem getLsbD_byteOf (id : Ident) (i j : Nat) :
    (byteOf id i).getLsbD j = (decide (j < 8) && id.getLsbD (8 * i + j)) := by
  simp [byteOf, BitVec.getLsbD_extractLsb']

/-- Bit i of a bus after lane q is replaced: the lane's own bits come from c, the others stay. -/
theorem getLsbD_setChr (bus : Bus) (q : Nat) (c : Byte) (i : Nat) (hi : i < 176) :
    (setChr bus q c).getLsbD i =
      if 8 * q ≤ i ∧ i < 8 * q + 8 then c.getLsbD (i - 8 * q) else bus.getLsbD i := by
  have ones : ∀ j, (0xFF#176).getLsbD j = decide (j < 8) := by
    intro j
    have h : (0xFF#176) = (BitVec.allOnes 8).setWidth 176 := by decide
    rw [h, BitVec.getLsbD_setWidth, BitVec.getLsbD_allOnes]
    by_cases hj : j < 8
    · simp [hj]; omega
    · simp [hj]
  by_cases hlo : i < 8 * q
  · have hn : ¬(8 * q ≤ i ∧ i < 8 * q + 8) := by omega
    simp [setChr, hi, hlo, hn]
  · by_cases hhi : i < 8 * q + 8
    · have hy : 8 * q ≤ i ∧ i < 8 * q + 8 := by omega
      have hj : i - 8 * q < 8 := by omega
      have hj' : i - 8 * q < 176 := by omega
      simp only [setChr, BitVec.getLsbD_or, BitVec.getLsbD_and, BitVec.getLsbD_not, BitVec.getLsbD_shiftLeft, ones,
        BitVec.getLsbD_setWidth, if_pos hy]
      simp [hi, hlo, hj, hj']
    · have hn : ¬(8 * q ≤ i ∧ i < 8 * q + 8) := by omega
      have hj : ¬ i - 8 * q < 8 := by omega
      have hc : c.getLsbD (i - 8 * q) = false := BitVec.getLsbD_of_ge _ _ (by omega)
      simp only [setChr, BitVec.getLsbD_or, BitVec.getLsbD_and, BitVec.getLsbD_not, BitVec.getLsbD_shiftLeft, ones,
        BitVec.getLsbD_setWidth, if_neg hn]
      simp [hi, hj, hc]

/-- A lane of a bus after a write: the lane written reads as c, every other lane as before. -/
theorem chr_setChr (bus : Bus) (q r : Nat) (c : Byte) (hr : r < 22) :
    chr (setChr bus q c) r = if r = q then c else chr bus r := by
  apply BitVec.eq_of_getLsbD_eq
  intro j hj
  rw [getLsbD_chr, getLsbD_setChr _ _ _ _ (by omega)]
  by_cases h : r = q
  · subst h
    simp [hj]
  · have hn : ¬(8 * q ≤ 8 * r + j ∧ 8 * r + j < 8 * q + 8) := by omega
    rw [if_neg hn, if_neg h, getLsbD_chr]

/-- Two buses with the same 22 characters are equal. -/
theorem bus_ext {a b : Bus} (h : ∀ q < 22, chr a q = chr b q) : a = b := by
  apply BitVec.eq_of_getLsbD_eq
  intro i hi
  have hq := congrArg (fun c : Byte => c.getLsbD (i % 8)) (h (i / 8) (by omega))
  simp only [getLsbD_chr] at hq
  have hm : i % 8 < 8 := Nat.mod_lt _ (by omega)
  have he : 8 * (i / 8) + i % 8 = i := Nat.div_add_mod i 8
  simpa [hm, he] using hq

/-! ### Halves -/

theorem lowHalf_joinHalves (h l : Half) : lowHalf (joinHalves h l) = l := by
  apply BitVec.eq_of_getLsbD_eq
  intro i hi
  rw [lowHalf, joinHalves, BitVec.getLsbD_extractLsb', BitVec.getLsbD_append]
  simp [hi]

theorem highHalf_joinHalves (h l : Half) : highHalf (joinHalves h l) = h := by
  apply BitVec.eq_of_getLsbD_eq
  intro i hi
  rw [highHalf, joinHalves, BitVec.getLsbD_extractLsb', BitVec.getLsbD_append]
  simp [hi]

theorem joinHalves_halves (id : Ident) : joinHalves (highHalf id) (lowHalf id) = id := by
  apply BitVec.eq_of_getLsbD_eq
  intro i hi
  simp only [highHalf, joinHalves, lowHalf, BitVec.getLsbD_append, BitVec.getLsbD_extractLsb']
  by_cases h : i < 64
  · simp [h]
  · have h2 : i - 64 < 64 := by omega
    have h3 : 64 + (i - 64) = i := by omega
    simp [h, h2, h3]

theorem identOf_setWidth (id : Ident) : identOf (id.setWidth 176) = id := by
  apply BitVec.eq_of_getLsbD_eq
  intro i hi
  have h : i < 176 := by omega
  simp [identOf, hi, h]

/-! ### Digits and weighted sums -/

theorem digit_lt (v k : Nat) : digit v k < 62 := Nat.mod_lt _ (by omega)

theorem digit_zero (v : Nat) : digit v 0 = v % 62 := by simp [digit]

theorem digit_succ (v k : Nat) : digit v (k + 1) = digit (v / 62) k := by
  simp [digit, Nat.pow_succ', Nat.div_div_eq_div_mul]

theorem weightedSum_eq_sum (g : Nat → Nat) : weightedSum g = ∑ k ∈ Finset.range 11, g k * 62 ^ k := by
  rw [weightedSum, Finset.sum_range]
  rfl

theorem weightedSum_congr {f g : Nat → Nat} (h : ∀ k < 11, f k = g k) : weightedSum f = weightedSum g := by
  rw [weightedSum_eq_sum, weightedSum_eq_sum]
  exact Finset.sum_congr rfl fun k hk => by rw [h k (Finset.mem_range.mp hk)]

/-! ### The character string of the encoder -/

/-- The lanes after n turns of the encoder's loop. -/
theorem chr_foldl_encodeDigit (rom : BitVec 6 → Byte) (low high n q : Nat) (hn : n ≤ 11) (hq : q < 22) :
    chr ((List.range n).foldl (encodeDigit rom low high) 0) q =
      if q % 2 = 0 ∧ q / 2 < n then rom (BitVec.ofNat 6 (digit low (q / 2)))
      else if q % 2 = 1 ∧ (21 - q) / 2 < n then rom (BitVec.ofNat 6 (digit high ((21 - q) / 2)))
      else 0 := by
  induction n with
  | zero => simp [chr]
  | succ n ih =>
    rw [List.range_succ, List.foldl_append, List.foldl_cons, List.foldl_nil, encodeDigit, chr_setChr _ _ _ _ hq,
      chr_setChr _ _ _ _ hq, ih (by omega)]
    by_cases he : q % 2 = 0
    · have h1 : q ≠ 21 - 2 * n := by omega
      have h3 : ¬ q % 2 = 1 := by omega
      by_cases hk : q = 2 * n
      · subst hk
        have hd : 2 * n / 2 = n := by omega
        simp [h1, hd]
      · have h2 : q / 2 < n + 1 ↔ q / 2 < n := by omega
        simp [he, h1, hk, h2]
    · have h3 : q % 2 = 1 := by omega
      have h4 : q ≠ 2 * n := by omega
      by_cases hk : q = 21 - 2 * n
      · have hd : (21 - q) / 2 = n := by omega
        have h0 : ¬ (q % 2 = 0) := he
        simp only [if_pos hk, h3, hd]
        simp
      · have h2 : (21 - q) / 2 < n + 1 ↔ (21 - q) / 2 < n := by omega
        simp [h3, h4, hk, h2]

/-! ### ROM words -/

theorem rlutDigit_lt (c : Byte) : (rlutDigit c).toNat < 62 := by
  revert c
  decide +kernel

theorem rlutDigit_of_invalid (c : Byte) (h : rlutValid c = false) : rlutDigit c = 0 := by
  revert c
  decide +kernel

/-- What `hasNonAlpha` says: some of the 22 characters is outside the alphabet. -/
theorem hasNonAlpha_iff (p : Bus) : hasNonAlpha p = true ↔ ∃ q < 22, rlutValid (chr p q) = false := by
  simp [hasNonAlpha]

end Sys2Proof.Machine
end

