-- ==== Sys2Proof/Laws/PerInstr.lean ====
section
/-! SUPPORT. What is said of every instruction, one lemma for a constructor of `Instr`. -/

namespace Sys2Proof.Laws.MatchesRow

/-- The word of a command, under the mask of its row of the opcode map, is the row's pattern (30_encoding.md R66). -/
def Statement (i : Instr) : Prop := encodeInstr i &&& i.row.mask = i.row.pattern

theorem encode : Statement .encode := by
  simp only [Statement]
  decide

theorem decode (strict : Bool) (len : Byte) : Statement (.decode strict len) := by
  revert strict len
  simp only [Statement]
  decide +kernel

theorem alphaRd (idx : Byte) : Statement (.alphaRd idx) := by
  revert idx
  simp only [Statement]
  decide +kernel

theorem rlutRd (code : Byte) : Statement (.rlutRd code) := by
  revert code
  simp only [Statement]
  decide +kernel

end Sys2Proof.Laws.MatchesRow
end

