-- ==== Sys2Proof/Laws/Runs.lean ====
section
/-! SUPPORT. The spec lemmas of runs: k steps are the host's own run of the machine, and runs add up. -/

namespace Sys2Proof.Machine

/-- The runs of the claims are the host's runs of the machine. -/
theorem core_run_eq_runSteps (k : Nat) (s : State) : Host.Core.run Sys2Proof.core k s = runSteps k s := by
  induction k generalizing s with
  | zero => rfl
  | succ k ih =>
    refine (Host.Core.run.eq_2 Sys2Proof.core s k).trans ?_
    cases h : step s with
    | next t =>
      have hc : Sys2Proof.core.step s = .next t := h
      rw [hc, runSteps, h]
      exact ih t
    | fault r =>
      have hc : Sys2Proof.core.step s = .fault r := h
      rw [hc, runSteps, h]
      rfl
    | refused r =>
      have hc : Sys2Proof.core.step s = .refused r := h
      rw [hc, runSteps, h]
      rfl

theorem runSteps_succ {k : Nat} {s t : State} (h : step s = .next t) : runSteps (k + 1) s = runSteps k t := by
  simp [runSteps, h]

theorem accepted_succ {k : Nat} {s t : State} (h : step s = .next t) :
    accepted (k + 1) s = s.acceptedNow.toList ++ accepted k t := by
  simp [accepted, h]

theorem observed_succ {k : Nat} {s t : State} (h : step s = .next t) :
    observed (k + 1) s = s.consumedNow.toList ++ observed k t := by
  simp [observed, h]

/-- LAT is at least 1 (00_scope.md R8). -/
theorem lat_pos : 0 < Config.lat := Nat.succ_pos _

/-- The levels of an edge with defined control inputs and no reset. -/
theorem Stimulus.runs_iff (x : Stimulus) :
    x.runs = true ↔ ∃ p v r, x = .edge p ∧ p.rst = some false ∧ p.cmdValid = some v ∧ p.rspReady = some r := by
  cases x with
  | powerCycle => simp [Stimulus.runs]
  | edge p =>
    obtain ⟨rst, v, w, d, r⟩ := p
    cases rst <;> cases v <;> cases r <;> simp [Stimulus.runs, Pins.controlsDefined]

/-- The control inputs of pins that are defined. -/
theorem Pins.controlsDefined_iff (p : Pins) :
    p.controlsDefined = true ↔ ∃ rst v r, p.rst = some rst ∧ p.cmdValid = some v ∧ p.rspReady = some r := by
  obtain ⟨rst, v, w, d, r⟩ := p
  cases rst <;> cases v <;> cases r <;> simp [Pins.controlsDefined]

/-- The step at an edge. -/
theorem step_of_edge {s : State} {p : Pins} (h : s.stimulus = .edge p) : step s = clockEdge Config.lat p s.advance :=
  cycle_of_edge h

end Sys2Proof.Machine
end

