-- ==== Sys2Proof/Tests/Slice0.lean ====
section
/-! SUPPORT. The model's own tests. Expected values come from spec/: the written-out encodings of 30_encoding.md R66, the
tables of 20_memory.md R41 and R44, and the vectors of 95_test_vectors.md. The witnesses at the end show, for every
statement with hypotheses, a concrete instance that meets them. -/

open Sys2Proof Sys2Proof.Machine

namespace Sys2Proof.Tests

/-! ## Syntax and words -/

theorem test_wf_refuses_wide_id : (AsmLine.encode (2 ^ 128)).wellFormed = false := by decide
theorem test_wf_refuses_fifteen_bytes : (AsmLine.encodeBytes (List.replicate 15 0)).wellFormed = false := by decide
theorem test_wf_refuses_wide_byte : (AsmLine.encodeBytes (256 :: List.replicate 15 0)).wellFormed = false := by decide
theorem test_wf_refuses_len_256 : (AsmLine.decode false 256 []).wellFormed = false := by decide
theorem test_wf_refuses_idx_256 : (AsmLine.alphaRd 256).wellFormed = false := by decide
theorem test_wf_refuses_code_256 : (AsmLine.rlutRd 256).wellFormed = false := by decide
theorem test_wf_refuses_wide_word : (AsmLine.illegal (2 ^ 16)).wellFormed = false := by decide

/-- R66: OP = 0001, every other bit 0. -/
theorem test_decode_ENCODE : decodeWord 0b0000000000000001 = .ok .encode := by decide
/-- R66: LLLLLLLL000S0010 with LEN = 22 and S = 0, then S = 1. -/
theorem test_decode_DECODE : decodeWord 0b0001011000000010 = .ok (.decode false 22) := by decide
theorem test_decode_DECODE_S : decodeWord 0b0001011000010010 = .ok (.decode true 22) := by decide
/-- R66: IIIIIIII00000011 with IDX = 35. -/
theorem test_decode_ALPHA_RD : decodeWord 0b0010001100000011 = .ok (.alphaRd 35) := by decide
/-- R66: CCCCCCCC00000100 with CODE = 0x5A. -/
theorem test_decode_RLUT_RD : decodeWord 0b0101101000000100 = .ok (.rlutRd 0x5A) := by decide

/-- V-I1 to V-I12. -/
theorem test_illegal_words :
    ([0x0000, 0x0005, 0x000F, 0x0011, 0x0101, 0x8001, 0x1622, 0x16C2, 0x0013, 0x5A14, 0x0083, 0xFFFF] : List CmdWord).all
      (fun w => (decodeWord w).toOption.isNone) = true := by decide

/-- The legal neighbours of section 5 of the vectors. -/
theorem test_legal_neighbours :
    (decodeWord 0x1612).toOption = some (.decode true 22) ∧ (decodeWord 0xFF02).toOption = some (.decode false 255) := by
  decide

/-- R71: the words of the syntax table. -/
theorem test_encode_words :
    [encodeInstr .encode, encodeInstr (.decode false 22), encodeInstr (.decode true 22), encodeInstr (.alphaRd 35),
      encodeInstr (.rlutRd 0x5A)] = [0x0001, 0x1602, 0x1612, 0x2303, 0x5A04] := by decide

theorem test_table_word : decodeTableWord 16 0x1612 = some (.decode true 22) ∧ decodeTableWord 16 0x0013 = none := by
  decide

/-! ## ROMs -/

/-- The table of R41, '0' to '9' and 'a' to 'z'. -/
theorem test_alphabet_low : (List.range 36).map (fun d => alpha (BitVec.ofNat 6 d)) = ascii "0123456789abcdefghijklmnopqrstuvwxyz" := by
  decide +kernel
/-- The table of R41, 'A' to 'Z' and the two spare words. -/
theorem test_alphabet_high :
    (List.range 28).map (fun d => alpha (BitVec.ofNat 6 (36 + d))) = ascii "ABCDEFGHIJKLMNOPQRSTUVWXYZ" ++ [0x00, 0x00] := by
  decide +kernel

/-- Rows 3x and 4x of the table of R44. -/
theorem test_rlut_rows_3_4 : (List.range 32).map (fun c => rlut (BitVec.ofNat 8 (0x30 + c))) =
    [0x40, 0x41, 0x42, 0x43, 0x44, 0x45, 0x46, 0x47, 0x48, 0x49, 0, 0, 0, 0, 0, 0,
     0, 0x64, 0x65, 0x66, 0x67, 0x68, 0x69, 0x6A, 0x6B, 0x6C, 0x6D, 0x6E, 0x6F, 0x70, 0x71, 0x72] := by decide +kernel
/-- Rows 5x to 7x of the table of R44. -/
theorem test_rlut_rows_5_6_7 : (List.range 48).map (fun c => rlut (BitVec.ofNat 8 (0x50 + c))) =
    [0x73, 0x74, 0x75, 0x76, 0x77, 0x78, 0x79, 0x7A, 0x7B, 0x7C, 0x7D, 0, 0, 0, 0, 0,
     0, 0x4A, 0x4B, 0x4C, 0x4D, 0x4E, 0x4F, 0x50, 0x51, 0x52, 0x53, 0x54, 0x55, 0x56, 0x57, 0x58,
     0x59, 0x5A, 0x5B, 0x5C, 0x5D, 0x5E, 0x5F, 0x60, 0x61, 0x62, 0x63, 0, 0, 0, 0, 0] := by decide +kernel
/-- Rows 0x to 2x and 8x to Fx of the table of R44. -/
theorem test_rlut_other_rows : ∀ c : Byte, c.toNat < 0x30 ∨ 0x80 ≤ c.toNat → rlut c = 0 := by decide +kernel

/-! ## Commands -/

/-- A block in BUSY about to take the result edge of word w with payload d, at an edge that asks nothing. -/
def atResult (w : CmdWord) (d : Bus) : State := { State.reset with payQ := d }.atResultEdge w

/-- A block in the given controller state, with the given levels at the coming edges. -/
def blockAt (f : Fsm) (xs : List Stimulus) : State := { State.reset with fsm := f, script := xs }

/-- The response that a step presents. -/
def presented (s : State) : Option Response :=
  match step s with
  | .next t => if t.fsm = .resp then some t.response else none
  | _       => none

/-- V-E3: the source's mixed pattern encodes to "G9MjP7G7GQ0ZyUf3J6Gk0J". -/
theorem test_ENCODE_mixed : presented (atResult 0x0001 0x6c6b6a696867666508070605040302e6) =
    some ⟨0, 0, 0x4a306b47364a336655795a305147374737506a4d3947⟩ := by decide +kernel
/-- V-E10 and V-E15: high is read from position 21 backwards, and payload bits above 127 are ignored. -/
theorem test_ENCODE_high_half : presented (atResult 0x0001 0xffffffffffffffffffffffffffff0000000000000000) =
    some ⟨0, 0, 0x66307930683061303630313041306830473059306c30⟩ := by decide +kernel

/-- V-D9: both halves overflow although each holds a zero digit. -/
theorem test_DECODE_overflow : presented (atResult 0x1602 0x5a5a5a5a5a5a5a5a5a5a5a5a5a5a5a5a30305a5a5a5a) =
    some ⟨0, 3, 0xd1f7aee93eb7baffd227003d8d27640b⟩ := by decide +kernel
/-- V-D18 and V-D19: '-' reads as digit 0 with NONALPHA, and DECODE.S refuses it. -/
theorem test_DECODE_foreign : presented (atResult 0x1602 0x2d306b47364a336655795a305147374737506a4d3947) =
      some ⟨0, 4, 0x6c6b6a696867663808070605040302e6⟩ ∧
    presented (atResult 0x1612 0x2d306b47364a336655795a305147374737506a4d3947) = some ⟨3, 0, 0⟩ := by decide +kernel
/-- V-D7: the smallest overflowing sum wraps to 0 with OVF_LO only. -/
theorem test_DECODE_smallest_overflow : presented (atResult 0x1602 0x306c3059304730683041303130363061306830793067) =
    some ⟨0, 1, 0⟩ := by decide +kernel
/-- V-P1 and V-P2: ILLEGAL_CMD before WRONG_LENGTH before INVALID_CHAR. -/
theorem test_priority : presented (atResult 0x1532 0x2d2d2d2d2d2d2d2d2d2d2d2d2d2d2d2d2d2d2d2d2d) = some ⟨1, 0, 0⟩ ∧
    presented (atResult 0x1512 0x2d2d2d2d2d2d2d2d2d2d2d2d2d2d2d2d2d2d2d2d2d) = some ⟨2, 0, 0⟩ := by decide +kernel

/-- V-A1 to V-A6. -/
theorem test_ALPHA_RD_entries :
    [0x0003, 0x0903, 0x0A03, 0x2303, 0x2403, 0x3D03].map (fun w => presented (atResult w 0)) =
      [some ⟨0, 0, 0x30⟩, some ⟨0, 0, 0x39⟩, some ⟨0, 0, 0x61⟩, some ⟨0, 0, 0x7A⟩, some ⟨0, 0, 0x41⟩, some ⟨0, 0, 0x5A⟩] := by
  decide +kernel
/-- V-A7 to V-A9. -/
theorem test_ALPHA_RD_bad_index :
    [0x3E03, 0x3F03, 0xFF03].map (fun w => presented (atResult w 0)) = List.replicate 3 (some ⟨4, 0, 0⟩) := by decide +kernel

/-- V-R1 to V-R6. -/
theorem test_RLUT_RD_entries :
    [0x3004, 0x3904, 0x6104, 0x7A04, 0x4104, 0x5A04].map (fun w => presented (atResult w 0)) =
      [some ⟨0, 0, 0⟩, some ⟨0, 0, 9⟩, some ⟨0, 0, 10⟩, some ⟨0, 0, 35⟩, some ⟨0, 0, 36⟩, some ⟨0, 0, 61⟩] := by decide +kernel
/-- V-R7 to V-R16. -/
theorem test_RLUT_RD_outside :
    [0x2D04, 0x0004, 0xFF04, 0x2F04, 0x3A04, 0x4004, 0x5B04, 0x6004, 0x7B04, 0xB004].map (fun w => presented (atResult w 0)) =
      List.replicate 10 (some ⟨0, 4, 0⟩) := by decide +kernel

/-- The words the host places run as the first command after reset. -/
theorem test_fetch_word : presented (State.reset.withFetchWord 16 0x2303) = some ⟨0, 0, 0x7A⟩ := by decide +kernel

/-! ## Edges -/

/-- V-C2: with LAT = 3 the acceptance edge sets cnt to 2. -/
theorem test_acceptance_cnt :
    cycle 3 (blockAt .idle [.edge (offerPins ⟨0x0001, 1⟩)]) =
      .next { blockAt .busy [] with cnt := 2, cmdQ := 0x0001, payQ := 1, tick := 1 } := rfl
/-- V-C8: a command offered at a reset edge is not accepted. -/
theorem test_reset_beats_acceptance :
    (blockAt .idle [.edge { offerPins ⟨0x0001, 1⟩ with rst := some true }]).acceptedNow = none := by decide
/-- V-C6: in the consumption cycle a command offered is not accepted. -/
theorem test_consumption_only : step (blockAt .resp [.edge { offerPins ⟨0x0003, 0⟩ with rspReady := some true }]) =
    .next { blockAt .idle [] with tick := 1 } := rfl
/-- I7: a floating `cmd_valid` is refused. -/
theorem test_floating_input : step (blockAt .resp [.edge { quietPins with cmdValid := none }]) =
    .refused .undefinedInput := rfl
/-- A block whose power has come and whose first reset edge has not, with the given stimuli ahead. -/
def unresetBlock (xs : List Stimulus) : State := { blockAt .idle xs with awaitsReset := true }
/-- R182 and R193: a command offered before the first reset edge is refused, in IDLE too. -/
theorem test_offer_before_reset : step (unresetBlock [.edge (offerPins ⟨0x0001, 1⟩)]) = .refused .offerBeforeReset := rfl
/-- R180 and R183: a reset edge ends the wait whatever is offered at it, and the next edge may be an acceptance edge. -/
theorem test_reset_ends_the_wait :
    runSteps 1 (unresetBlock [.edge { offerPins ⟨0x0001, 1⟩ with rst := some true }, .edge (offerPins ⟨0x0003, 2⟩)]) =
        .next ((unresetBlock [.edge { offerPins ⟨0x0001, 1⟩ with rst := some true },
          .edge (offerPins ⟨0x0003, 2⟩)]).advance.resetEdge Config.lat) ∧
      ((unresetBlock [.edge { offerPins ⟨0x0001, 1⟩ with rst := some true },
        .edge (offerPins ⟨0x0003, 2⟩)]).advance.resetEdge Config.lat).acceptedNow = some ⟨0x0003, 2⟩ := ⟨rfl, rfl⟩

/-! ## Assembler -/

theorem test_assemble_decode : assembleLine (ascii "DECODE.S 22, \"0;\" ; strict") = some [⟨0x1612, 0x3b30⟩] := by decide +kernel
theorem test_assemble_hex : assembleLine (ascii "  RLUT_RD 0x5A") = some [⟨0x5A04, 0⟩] := by decide +kernel
theorem test_assemble_bytes : assembleLine (ascii "ENCODE.B 230,2,3,4,5,6,7,8,101,102,103,104,105,106,107,108") =
    some [⟨0x0001, 0x6c6b6a696867666508070605040302e6⟩] := by decide +kernel
theorem test_assemble_refuses_large : assembleLine (ascii "ALPHA_RD 256") = none := by decide +kernel
/-- The illegal word and the last line of program P3. -/
theorem test_assemble_text : assembleText (ascii "ILLEGAL 0x0013 ; reserved bit\n\nALPHA_RD 0") = some [⟨0x0013, 0⟩, ⟨0x0003, 0⟩] := by
  decide +kernel
theorem test_disassemble : disassemble 0xFF02 = ascii "DECODE 255" ∧ disassemble 0x1612 = ascii "DECODE.S 22" ∧
    disassemble 0x5A14 = ascii "ILLEGAL 0x5A14" := by decide +kernel

/-! ## Witnesses: a concrete instance of the hypotheses of each statement that has some -/

/-- "000…0", "0…0-" and "Z…Z" as payloads. -/
def zeros : Bus := 0x30303030303030303030303030303030303030303030
def dashed : Bus := 0x2d303030303030303030303030303030303030303030
def zeds : Bus := 0x5a5a5a5a5a5a5a5a5a5a5a5a5a5a5a5a5a5a5a5a5a5a

/-- A state whose captured payload is d. -/
def holding (d : Bus) : State := { State.reset with payQ := d }

theorem witness_DecodeGivesTruncatedSums :
    (true = false ∨ ∀ q < 22, rlutValid (chr (holding zeros).payQ q) = true) ∧
    (false = false ∨ ∀ q < 22, rlutValid (chr (holding dashed).payQ q) = true) :=
  ⟨.inr (by decide +kernel), .inl rfl⟩
theorem witness_DecodeWrongLength : (21 : Byte) ≠ 22 ∧ (23 : Byte) ≠ 22 ∧ (0 : Byte) ≠ 22 ∧ (255 : Byte) ≠ 22 := by decide
theorem witness_DecodeStrictRefusesCharacters : ∃ q < 22, rlutValid (chr (holding dashed).payQ q) = false :=
  ⟨21, by decide, by decide +kernel⟩
theorem witness_AlphaRdReadsTheAlphabet :
    (0x2303 : CmdWord) &&& 0x00FF = 0x0003 ∧ 62 ≤ (62 : Byte).toNat ∧ 62 ≤ (255 : Byte).toNat ∧ (9 : Byte).toNat < 10 ∧
      (10 ≤ (10 : Byte).toNat ∧ (35 : Byte).toNat < 36) ∧ 36 ≤ (36 : Byte).toNat ∧ (61 : Byte).toNat < 62 := by decide
theorem witness_RlutRdReadsTheReverseLookup :
    (0x5A04 : CmdWord) &&& 0x00FF = 0x0004 ∧ (0x30 ≤ (0x39 : Byte).toNat ∧ (0x39 : Byte).toNat ≤ 0x39) ∧
      (0x61 ≤ (0x7A : Byte).toNat ∧ (0x7A : Byte).toNat ≤ 0x7A) ∧ 0x41 ≤ (0x5A : Byte).toNat ∧ (0x5A : Byte).toNat ≤ 0x5A := by
  decide
theorem witness_ResponseIgnoresTheRestOfTheState :
    holding zeds ≠ { holding zeds with rspFlagsQ := 7 } ∧ (holding zeds).payQ = { holding zeds with rspFlagsQ := 7 }.payQ := by
  decide
theorem witness_RomsAgree : (61 : BitVec 6).toNat < 62 ∧ rlutValid 0x5A = true ∧ rlutValid 0x2D = false := by decide +kernel
theorem witness_RomReadsChain : (0 : Byte).toNat < 62 ∧ (61 : Byte).toNat < 62 := by decide
/-- An alphabet ROM with other words at 62 and 63. -/
def otherRom (d : BitVec 6) : Byte := if d.toNat < 62 then alpha d else 0xFF
theorem witness_SpareAlphabetWordsAreNotRead : (∀ d : BitVec 6, d.toNat < 62 → otherRom d = alpha d) ∧ otherRom 62 ≠ alpha 62 := by
  decide +kernel
theorem witness_EncodeIsInjective :
    exec .encode (holding 0) = .next ((holding 0).present (encodeResponse 0)) ∧
    exec .encode (holding 1) = .next ((holding 1).present (encodeResponse 1)) ∧
    (holding 0).payQ.extractLsb' 0 128 ≠ (holding 1).payQ.extractLsb' 0 128 := ⟨rfl, rfl, by decide⟩
theorem witness_HalvesAreEncodedIndependently :
    ((0x10 : Ident).extractLsb' 0 64 = (0x50000000000000010 : Ident).extractLsb' 0 64 ∧ (0x10 : Ident) ≠ 0x50000000000000010) ∧
    (0x50000000000000010 : Ident).extractLsb' 64 64 = (0x50000000000000020 : Ident).extractLsb' 64 64 := by decide
theorem witness_RepeatedDivisionGivesTheDigits : 18446744073709551615 < 2 ^ 64 ∧ 61 ∈ digitsByDivision 11 61 := by decide
theorem witness_HornerGivesTheTruncatedSum : ∀ k ≤ 10, (fun _ : Nat => 61) k < 62 := by decide
theorem witness_DecodeUndoesEncode :
    exec .encode (holding 1) = .next ((holding 1).present (encodeResponse 1)) ∧
    (holding (encodeResponse 1).data).payQ = ((holding 1).present (encodeResponse 1)).rspDataQ := ⟨rfl, rfl⟩
/-- One string that comes back (flags 0) and one that does not (flags 3). -/
theorem witness_EncodeUndoesDecodeIffFlagsZero :
    (exec (.decode true 22) (holding zeros) = .next ((holding zeros).present (decodeResponse true 22 zeros)) ∧
      (decodeResponse true 22 zeros).status = 0 ∧ (decodeResponse true 22 zeros).flags = 0) ∧
    (exec (.decode false 22) (holding zeds) = .next ((holding zeds).present (decodeResponse false 22 zeds)) ∧
      (decodeResponse false 22 zeds).status = 0 ∧ (decodeResponse false 22 zeds).flags = 3) :=
  ⟨⟨exec_decode _ _ _, by decide +kernel, by decide +kernel⟩, exec_decode _ _ _, by decide +kernel, by decide +kernel⟩
theorem witness_StrictAgreesOnEncoded :
    (exec .encode (holding 1) = .next ((holding 1).present (encodeResponse 1)) ∧
      (holding (encodeResponse 1).data).payQ = ((holding 1).present (encodeResponse 1)).rspDataQ) ∧
    ∃ q < 22, rlutValid (chr (holding dashed).payQ q) = false :=
  ⟨⟨rfl, rfl⟩, 21, by decide, by decide +kernel⟩
theorem witness_ForeignCharactersReadAsZero :
    (∃ q < 22, rlutValid (chr (holding dashed).payQ q) = false) ∧
    ∀ q < 22, chr (holding zeros).payQ q =
      if rlutValid (chr (holding dashed).payQ q) then chr (holding dashed).payQ q else 0x30 :=
  ⟨⟨21, by decide, by decide +kernel⟩, by decide +kernel⟩
theorem witness_FailedResponseIsEmpty : (execute 0x3E03 0).status ≠ 0 := by decide +kernel
theorem witness_UnusedPayloadIsIgnored :
    (BitVec.extractLsb' 0 128 (0x1 : Bus) = BitVec.extractLsb' 0 128 (0x100000000000000000000000000000001 : Bus)) ∧
    ((0x1512 : CmdWord) &&& 0x00EF = 0x0002 ∧ (0x1512 : CmdWord).extractLsb' 8 8 ≠ 22) ∧
    (0x2303 : CmdWord) &&& 0x00FF = 0x0003 ∧ (0x5A04 : CmdWord) &&& 0x00FF = 0x0004 := by decide
theorem witness_UnlistedDataBitsAreZero :
    (0x1602 : CmdWord) &&& 0x00EF = 0x0002 ∧ (0x2303 : CmdWord) &&& 0x00FF = 0x0003 ∧ (0x5A04 : CmdWord) &&& 0x00FF = 0x0004 := by
  decide
theorem witness_DecodeOfEncodedWord : (Instr.decode true 255).wellFormed = true := rfl
theorem witness_EncodeOfDecodedWord : decodeWord 0xFF12 = .ok (.decode true 255) := by decide
theorem witness_AtMostOneRowSelects : decodeWord 0x3D03 = .ok (.alphaRd 61) ∧ decodeWord 0x0011 = .error .reservedBits := by
  decide

theorem witness_IllegalWordIsAnswered :
    (atResult 0x0013 0).awaitsReset = false ∧ (atResult 0x0013 0).stimulus = .edge quietPins ∧ quietPins.controlsDefined = true ∧ quietPins.rst = some false ∧
    (atResult 0x0013 0).fsm = .busy ∧ (atResult 0x0013 0).cnt = 0 ∧
    decodeWord (atResult 0x0013 0).cmdQ = .error .reservedBits := by decide
theorem witness_StepRunsTheDecodedCommand :
    (atResult 0x2303 0).awaitsReset = false ∧ (atResult 0x2303 0).stimulus = .edge quietPins ∧
    quietPins.controlsDefined = true ∧ quietPins.rst = some false ∧ (atResult 0x2303 0).fsm = .busy ∧ (atResult 0x2303 0).cnt = 0 ∧ decodeWord (atResult 0x2303 0).cmdQ = .ok (.alphaRd 35) ∧
    (Instr.alphaRd 35).wellFormed = true := by decide
/-- The hypotheses of ResultEdgeRespondsWithExecute are those of StepRunsTheDecodedCommand without the last two. -/
theorem witness_ResultEdgeRespondsWithExecute :
    (atResult 0xFFFF zeds).awaitsReset = false ∧ (atResult 0xFFFF zeds).stimulus = .edge quietPins ∧
    quietPins.controlsDefined = true ∧ quietPins.rst = some false ∧ (atResult 0xFFFF zeds).fsm = .busy ∧ (atResult 0xFFFF zeds).cnt = 0 := by decide
/-- The levels of a host that offers ALPHA_RD 0. -/
def offerAlpha : Pins := offerPins ⟨0x0003, 0⟩
theorem witness_AcceptanceCapturesTheCommand :
    (blockAt .idle [.edge offerAlpha]).awaitsReset = false ∧ (blockAt .idle [.edge offerAlpha]).stimulus = .edge offerAlpha ∧
    offerAlpha.controlsDefined = true ∧ offerAlpha.rst = some false ∧ (blockAt .idle [.edge offerAlpha]).fsm = .idle ∧ offerAlpha.cmdValid = some true ∧
    offerAlpha.cmdWord = some 0x0003 ∧ offerAlpha.cmdPayload = some 0 := by decide
theorem witness_BusyEdgeCountsDown :
    { blockAt .busy [.edge quietPins] with cnt := 1 }.awaitsReset = false ∧
    { blockAt .busy [.edge quietPins] with cnt := 1 }.stimulus = .edge quietPins ∧ quietPins.controlsDefined = true ∧
    quietPins.rst = some false ∧ { blockAt .busy [.edge quietPins] with cnt := 1 }.fsm = .busy ∧
    0 < { blockAt .busy [.edge quietPins] with cnt := 1 }.cnt := by decide
theorem witness_ConsumptionReturnsToIdle :
    (blockAt .resp [.edge takePins]).awaitsReset = false ∧ (blockAt .resp [.edge takePins]).stimulus = .edge takePins ∧
    takePins.controlsDefined = true ∧ takePins.rst = some false ∧ (blockAt .resp [.edge takePins]).fsm = .resp ∧ takePins.rspReady = some true := by decide
theorem witness_HoldChangesNothing :
    quietPins.controlsDefined = true ∧ quietPins.rst = some false ∧
    ((blockAt .idle [.edge quietPins]).awaitsReset = false ∧ (blockAt .idle [.edge quietPins]).stimulus = .edge quietPins ∧
      (blockAt .idle [.edge quietPins]).fsm = .idle ∧ quietPins.cmdValid = some false) ∧
    ((blockAt .resp [.edge quietPins]).awaitsReset = false ∧ (blockAt .resp [.edge quietPins]).stimulus = .edge quietPins ∧
      (blockAt .resp [.edge quietPins]).fsm = .resp ∧
      quietPins.rspReady = some false) := by decide
/-- The hypotheses of ResetEdgeGoesToIdle and of ResetIsReadyForACommand, with a command offered and a response pending. -/
theorem witness_ResetEdge :
    (blockAt .resp [.edge { offerAlpha with rst := some true }]).stimulus = .edge { offerAlpha with rst := some true } ∧
    { offerAlpha with rst := some true }.controlsDefined = true ∧ { offerAlpha with rst := some true }.rst = some true := by
  decide
/-- The reset edge is the first edge after power-up, or comes after an edge that asks nothing. -/
theorem witness_ResetRecoversFromPowerLoss :
    (blockAt .busy [.powerCycle, .edge resetPins]).script = .powerCycle :: ([] ++ .edge resetPins :: []) ∧
    (blockAt .busy [.powerCycle, .edge takePins, .edge resetPins]).script =
      .powerCycle :: ([.edge takePins] ++ .edge resetPins :: []) ∧
    (∀ x ∈ [Stimulus.edge takePins], x.offersNothing = true) ∧ resetPins.controlsDefined = true ∧
    resetPins.rst = some true := by decide
theorem witness_CommandBeforeTheFirstResetIsRefused :
    (blockAt .resp [.powerCycle, .edge quietPins, .edge offerAlpha]).script =
      .powerCycle :: ([.edge quietPins] ++ .edge offerAlpha :: []) ∧
    (∀ x ∈ [Stimulus.edge quietPins], x.offersNothing = true) ∧ offerAlpha.controlsDefined = true ∧
    offerAlpha.rst = some false ∧ offerAlpha.cmdValid = some true := by decide
theorem witness_OutputsFollowTheState :
    ((blockAt .resp []).awaitsReset = false ∧ (outputs (blockAt .resp [])).rspValid = true) ∧
    (blockAt .idle []).awaitsReset = false ∧ (outputs (blockAt .idle [])).cmdReady = true := ⟨⟨rfl, rfl⟩, rfl, rfl⟩
theorem witness_RefusedExactlyOnABrokenDuty :
    step (blockAt .idle [.edge { offerAlpha with cmdWord := none }]) = .refused .undefinedInput ∧
    step (blockAt .busy [.edge { quietPins with rst := none }]) = .refused .undefinedInput ∧
    step (unresetBlock [.edge offerAlpha]) = .refused .offerBeforeReset := ⟨rfl, rfl, rfl⟩
theorem witness_CntStaysInRange :
    (blockAt .resp [.edge takePins]).cntInRange ∧
    step (blockAt .resp [.edge takePins]) = .next { blockAt .idle [] with tick := 1 } := ⟨Nat.succ_pos _, rfl⟩
/-- A rising edge, and a loss of power. -/
theorem witness_EveryStepKeepsTheInvariant :
    ((blockAt .idle [.edge quietPins]).Inv ∧
      step (blockAt .idle [.edge quietPins]) = .next { blockAt .idle [] with tick := 1 }) ∧
    (blockAt .idle [.powerCycle]).Inv ∧
      step (blockAt .idle [.powerCycle]) = .next ((blockAt .idle [.powerCycle]).advance.powerUp Config.lat) :=
  ⟨⟨⟨Nat.succ_pos _, nofun⟩, rfl⟩, ⟨Nat.succ_pos _, nofun⟩, rfl⟩
/-- A command offered and then LAT edges that ask nothing. -/
def offeredThenQuiet : State := blockAt .idle (.edge offerAlpha :: List.replicate Config.lat (.edge quietPins))
theorem witness_ResponseComesAfterLatEdges :
    offeredThenQuiet.acceptedNow = some ⟨0x0003, 0⟩ ∧ Config.lat + 1 ≤ offeredThenQuiet.script.length ∧
    ∀ x ∈ offeredThenQuiet.script.take (Config.lat + 1), x.runs = true := by
  refine ⟨rfl, by simp [offeredThenQuiet, blockAt], ?_⟩
  intro x hx
  have hmem : x ∈ Stimulus.edge offerAlpha :: List.replicate Config.lat (Stimulus.edge quietPins) := List.mem_of_mem_take hx
  simp only [List.mem_cons, List.mem_replicate] at hmem
  rcases hmem with rfl | ⟨_, rfl⟩ <;> decide
/-- The hypotheses hold at the first edge after the acceptance (j = 1). -/
theorem witness_AcceptancesAreLatPlusTwoApart :
    (blockAt .idle [.edge offerAlpha]).acceptedNow = some ⟨0x0003, 0⟩ ∧ 0 < 1 ∧ 1 < Config.lat + 2 ∧
    1 ≤ (blockAt .idle [.edge offerAlpha]).script.length ∧
    (∀ x ∈ (blockAt .idle [.edge offerAlpha]).script.take 1, x.runs = true) ∧
    runSteps 1 (blockAt .idle [.edge offerAlpha]) =
      .next ((blockAt .idle [.edge offerAlpha]).advance.accept Config.lat 0x0003 0) :=
  ⟨rfl, by decide, by omega, by decide, by decide, rfl⟩
theorem witness_UntakenResponseStays :
    (blockAt .resp [.edge quietPins, .edge offerAlpha]).awaitsReset = false ∧
    (blockAt .resp [.edge quietPins, .edge offerAlpha]).fsm = .resp ∧
    2 ≤ (blockAt .resp [.edge quietPins, .edge offerAlpha]).script.length ∧
    ∀ x ∈ (blockAt .resp [.edge quietPins, .edge offerAlpha]).script.take 2, x.stalls = true := by decide
/-- For the first clause a host that offers nothing; for the second one that offers a command. -/
theorem witness_ResetAbandonsTheCommand :
    resetPins.controlsDefined = true ∧ resetPins.rst = some true ∧
    ((blockAt .busy [.edge resetPins, .edge quietPins, .edge takePins]).script = .edge resetPins :: [.edge quietPins, .edge takePins] ∧
      2 ≤ [Stimulus.edge quietPins, .edge takePins].length ∧
      ∀ x ∈ [Stimulus.edge quietPins, .edge takePins].take 2, x.offersNothing = true) ∧
    ((blockAt .resp [.edge resetPins, .edge offerAlpha]).script = .edge resetPins :: [.edge offerAlpha] ∧
      1 ≤ [Stimulus.edge offerAlpha].length ∧ ∀ x ∈ [Stimulus.edge offerAlpha].take 1, x.runs = true) := by decide
/-- A served command, and a host whose word and payload float at an edge that does not read them. -/
theorem witness_ResponsesComeInAcceptanceOrder :
    (Stimulus.edge { takePins with cmdWord := none, cmdPayload := none }).runs = true ∧
    (blockAt .idle [.edge offerAlpha, .edge takePins]).fsm = .idle ∧
    2 ≤ (blockAt .idle [.edge offerAlpha, .edge takePins]).script.length ∧
    ∀ x ∈ (blockAt .idle [.edge offerAlpha, .edge takePins]).script.take 2, x.runs = true := by decide
theorem witness_ServedRunObservesEveryResult :
    (blockAt .resp (serveRun [⟨0x0001, 1⟩, ⟨0x3E03, 0⟩])).script = serveRun [⟨0x0001, 1⟩, ⟨0x3E03, 0⟩] := rfl
theorem witness_AssemblerFollowsTheTable :
    ((List.replicate 16 255).length = 16 ∧ ∀ b ∈ List.replicate 16 255, b < 256) ∧
    assemble (.decode true 255 zeroString) = some (decodeCommand true 255 zeroString) := by
  refine ⟨by decide, rfl⟩
where
  /-- "00" -/
  zeroString : List Byte := [0x30, 0x30]

end Sys2Proof.Tests
end

section
/-! PROOF. The rules of the response: what each flag of `packFlags` is, what `Execute` dispatches to, and that the result
edge, which decodes and runs, presents exactly `Execute` of what was captured. -/

namespace Sys2Proof.Machine

/-! ### The flags -/

@[simp] theorem ovfLo_packFlags (n h l : Bool) : ovfLo (packFlags n h l) = l := by
  cases n <;> cases h <;> cases l <;> rfl

@[simp] theorem ovfHi_packFlags (n h l : Bool) : ovfHi (packFlags n h l) = h := by
  cases n <;> cases h <;> cases l <;> rfl

@[simp] theorem nonAlpha_packFlags (n h l : Bool) : nonAlpha (packFlags n h l) = n := by
  cases n <;> cases h <;> cases l <;> rfl

/-- Flag bit 3 is reserved (R26). -/
theorem getLsbD_three_packFlags (n h l : Bool) : (packFlags n h l).getLsbD 3 = false := by
  cases n <;> cases h <;> cases l <;> rfl

@[simp] theorem ovfLo_zero : ovfLo 0#4 = false := rfl
@[simp] theorem ovfHi_zero : ovfHi 0#4 = false := rfl
@[simp] theorem nonAlpha_zero : nonAlpha 0#4 = false := rfl

@[simp] theorem encodeResponse_flags (p : Bus) : (encodeResponse p).flags = 0 := rfl

@[simp] theorem illegalResponse_flags : illegalResponse.flags = 0 := rfl

@[simp] theorem rlutRdResponse_flags (code : Byte) :
    (rlutRdResponse code).flags = packFlags (!rlutValid code) false false := rfl

@[simp] theorem alphaRdResponse_flags (rom : BitVec 6 → Byte) (idx : Byte) : (alphaRdResponse rom idx).flags = 0 := by
  unfold alphaRdResponse
  split
  · exact errorResponse_flags _
  · exact okResponse_flags _ _

/-- A decode that sets flags is an OK one. -/
theorem decodeResponse_flags_cases (strict : Bool) (len : Byte) (p : Bus) :
    (decodeResponse strict len p).flags = 0 ∨
      (decodeResponse strict len p).status = 0 ∧
        (decodeResponse strict len p).flags =
          packFlags (hasNonAlpha p) (overflows (highSum p)) (overflows (lowSum p)) := by
  unfold decodeResponse
  split
  · exact .inl (errorResponse_flags _)
  · split
    · exact .inl (errorResponse_flags _)
    · exact .inr ⟨okResponse_status _ _, okResponse_flags _ _⟩

/-! ### `Execute` and the decoder -/

/-- The row of R70 that answers a word. -/
theorem execute_cases (w : CmdWord) (p : Bus) :
    (w &&& 0xFFFF = 0x0001 ∧ execute w p = encodeResponse p) ∨
      (w &&& 0x00EF = 0x0002 ∧ execute w p = decodeResponse (strictField w) (argField w) p) ∨
      (w &&& 0x00FF = 0x0003 ∧ execute w p = alphaRdResponse alpha (argField w)) ∨
      (w &&& 0x00FF = 0x0004 ∧ execute w p = rlutRdResponse (argField w)) ∨
      execute w p = illegalResponse := by
  unfold execute
  split_ifs with hencode hdecode halpha hrlut
  · exact .inl ⟨hencode, rfl⟩
  · exact .inr (.inl ⟨hdecode, rfl⟩)
  · exact .inr (.inr (.inl ⟨halpha, rfl⟩))
  · exact .inr (.inr (.inr (.inl ⟨hrlut, rfl⟩)))
  · exact .inr (.inr (.inr (.inr rfl)))

/-- Which flags `Execute` gives: those of an OK decode, NONALPHA of RLUT_RD, and none for every other response (R26). -/
theorem execute_flags_cases (w : CmdWord) (p : Bus) :
    (execute w p).flags = 0 ∨
      (w &&& 0x00EF = 0x0002 ∧ (execute w p).status = 0 ∧
        (execute w p).flags = packFlags (hasNonAlpha p) (overflows (highSum p)) (overflows (lowSum p))) ∨
      (w &&& 0x00FF = 0x0004 ∧ (execute w p).flags = packFlags (!rlutValid (argField w)) false false) := by
  rcases execute_cases w p with ⟨_, he⟩ | ⟨hw, he⟩ | ⟨_, he⟩ | ⟨hw, he⟩ | he <;> rw [he]
  case inl => exact .inl (encodeResponse_flags p)
  case inr.inl =>
    rcases decodeResponse_flags_cases (strictField w) (argField w) p with hzero | hok
    · exact .inl hzero
    · exact .inr (.inl ⟨hw, hok⟩)
  case inr.inr.inl => exact .inl (alphaRdResponse_flags alpha _)
  case inr.inr.inr.inl => exact .inr (.inr ⟨hw, rlutRdResponse_flags _⟩)
  case inr.inr.inr.inr => exact .inl illegalResponse_flags

/-- A word that decodes: running its command presents `Execute` of the word and the captured payload. -/
theorem exec_of_decodeWord {w : CmdWord} {i : Instr} (h : decodeWord w = .ok i) (s : State) :
    exec i s = .next (s.present (execute w s.payQ)) := by
  unfold decodeWord at h
  unfold execute
  split_ifs at h ⊢ <;> cases h
  · exact exec_encode s
  · exact exec_decode _ _ s
  · exact exec_alphaRd _ s
  · exact exec_rlutRd _ s

/-- A word that does not decode is answered as an illegal one. -/
theorem execute_of_decodeWord_error {w : CmdWord} {e : DecodeError} (h : decodeWord w = .error e) (p : Bus) :
    execute w p = illegalResponse := by
  unfold decodeWord at h
  unfold execute
  split_ifs at h ⊢
  rfl

/-- The result edge is `respond(Execute(cmd_q, pay_q))` with `fsm <- RESP`, for every word (R30, R70). -/
theorem resultEdge_eq (s : State) : resultEdge s = .next (s.present (execute s.cmdQ s.payQ)) := by
  rcases resultEdge_cases s with ⟨i, hi, he⟩ | ⟨e, hword, he⟩
  · rw [he, exec_of_decodeWord hi]
  · rw [he, execute_of_decodeWord_error hword]

end Sys2Proof.Machine
end

section
/-! PROOF. What the step is at each kind of edge, and which outputs a state shows. -/

namespace Sys2Proof.Machine

/-! ### The edge of each controller state, by what the host does -/

@[simp] theorem idleEdge_hold (lat : Nat) (p : Pins) (s : State) : idleEdge lat false p s = .next s := rfl

theorem idleEdge_accept {p : Pins} {w : CmdWord} {d : Bus} (hw : p.cmdWord = some w) (hd : p.cmdPayload = some d)
    (lat : Nat) (s : State) : idleEdge lat true p s = .next (s.accept lat w d) := by
  simp [idleEdge, hw, hd]

theorem busyEdge_of_pos {s : State} (h : 0 < s.cnt) : busyEdge s = .next s.countDown := if_pos h

theorem busyEdge_of_zero {s : State} (h : s.cnt = 0) : busyEdge s = resultEdge s := if_neg (by omega)

@[simp] theorem respEdge_take (s : State) : respEdge true s = .next s.consume := rfl
@[simp] theorem respEdge_hold (s : State) : respEdge false s = .next s := rfl

theorem resultEdge_of_decodeWord {s : State} {i : Instr} (h : decodeWord s.cmdQ = .ok i) : resultEdge s = exec i s := by
  simp [resultEdge, h]

/-! ### The step at an edge with defined control inputs -/

/-- Reset wins, in every state and whatever else is at the ports (R180). -/
theorem step_at_reset {s : State} {p : Pins} (hs : s.stimulus = .edge p) (hdef : p.controlsDefined = true)
    (hrst : p.rst = some true) : step s = .next (s.advance.resetEdge Config.lat) := by
  obtain ⟨_, v, r, _, hv, hr⟩ := p.controlsDefined_iff.mp hdef
  rw [step_of_edge hs]
  simp [clockEdge, hrst, hv, hr]

section Running

variable {s : State} {p : Pins} (ha : s.awaitsReset = false) (hs : s.stimulus = .edge p)
  (hdef : p.controlsDefined = true) (hrst : p.rst = some false)
include ha hs hdef hrst

theorem step_in_idle {v : Bool} (hf : s.fsm = .idle) (hv : p.cmdValid = some v) :
    step s = idleEdge Config.lat v p s.advance := by
  obtain ⟨_, _, r, _, _, hr⟩ := p.controlsDefined_iff.mp hdef
  rw [step_of_edge hs, clockEdge_running (s := s.advance) ha hrst hv hr, State.advance_fsm, hf]

theorem step_in_busy (hf : s.fsm = .busy) : step s = busyEdge s.advance := by
  obtain ⟨_, v, r, _, hv, hr⟩ := p.controlsDefined_iff.mp hdef
  rw [step_of_edge hs, clockEdge_running (s := s.advance) ha hrst hv hr, State.advance_fsm, hf]

theorem step_in_resp {r : Bool} (hf : s.fsm = .resp) (hr : p.rspReady = some r) : step s = respEdge r s.advance := by
  obtain ⟨_, v, _, _, hv, _⟩ := p.controlsDefined_iff.mp hdef
  rw [step_of_edge hs, clockEdge_running (s := s.advance) ha hrst hv hr, State.advance_fsm, hf]

end Running

/-! ### The outputs, and what is accepted -/

theorem outputs_cmdReady {s : State} (ha : s.awaitsReset = false) : (outputs s).cmdReady = (s.fsm == .idle) := by
  simp [outputs, ha]

theorem outputs_rspValid {s : State} (ha : s.awaitsReset = false) : (outputs s).rspValid = (s.fsm == .resp) := by
  simp [outputs, ha]

/-- While a response is presented, every output is fixed by the response registers: no free draw shows (R27). -/
theorem outputs_of_presents {s : State} (h : s.presents = true) :
    outputs s = ⟨false, true, s.rspStatusQ, s.rspFlagsQ, s.rspDataQ⟩ := by
  obtain ⟨hf, ha⟩ := s.presents_iff.mp h
  simp [outputs, h, hf, ha]

/-- Only IDLE accepts a command (R28, R31). -/
theorem acceptedNow_eq_none {s : State} (h : s.fsm ≠ .idle) : s.acceptedNow = none := by
  unfold State.acceptedNow
  split
  · split
    · simp [h]
    · rfl
  · rfl

/-- A stalling stimulus is an edge without reset, with defined control inputs, that leaves the response (R187). -/
theorem Stimulus.stalls_iff (x : Stimulus) :
    x.stalls = true ↔ ∃ p, x = .edge p ∧ p.controlsDefined = true ∧ p.rst = some false ∧ p.rspReady = some false := by
  cases x <;> simp [Stimulus.stalls, and_assoc]

end Sys2Proof.Machine
end

section
/-! PROOF. Each half of the invariant, update by update and then for the rising edge and the step. -/

namespace Sys2Proof.Machine

/-! ### `cnt` in range -/

/-- A free draw of `cnt` is below LAT (log entry 5). -/
theorem freeCnt_mod_lat_lt (t : Nat) : Config.freeCnt t % Config.lat < Config.lat := Nat.mod_lt _ lat_pos

theorem cntInRange_resetEdge (s : State) : (s.resetEdge Config.lat).cntInRange := freeCnt_mod_lat_lt s.tick

theorem cntInRange_powerUp (s : State) : (s.powerUp Config.lat).cntInRange := freeCnt_mod_lat_lt s.tick

theorem cntInRange_accept (s : State) (w : CmdWord) (d : Bus) : (s.accept Config.lat w d).cntInRange :=
  Nat.sub_lt lat_pos Nat.one_pos

theorem cntInRange_countDown {s : State} (h : s.cntInRange) : s.countDown.cntInRange := (Nat.sub_le _ _).trans_lt h

theorem clockEdge_keeps_cntInRange {p : Pins} {s t : State} (hs : s.cntInRange)
    (h : clockEdge Config.lat p s = .next t) : t.cntInRange := by
  rcases clockEdge_next h with ⟨_, rfl⟩ | ⟨_, _, _, rfl⟩ | ⟨_, _, _, _, rfl⟩ | ⟨w, d, _, _, _, _, _, _, rfl⟩ |
    ⟨_, _, _, _, rfl⟩ | ⟨_, _, _, _, hresult⟩ | ⟨_, _, _, _, rfl⟩ | ⟨_, _, _, _, rfl⟩
  · -- reset edge
    exact cntInRange_resetEdge s
  · -- wait for the first reset
    exact cntInRange_powerUp s
  · -- hold in IDLE
    exact hs
  · -- acceptance edge
    exact cntInRange_accept s w d
  · -- busy edge
    exact cntInRange_countDown hs
  · -- result edge
    rw [resultEdge_eq] at hresult
    cases hresult
    exact hs
  · -- consumption edge
    exact hs
  · -- hold in RESP
    exact hs

theorem step_keeps_cntInRange {s t : State} (hs : s.cntInRange) (h : step s = .next t) : t.cntInRange := by
  rcases cycle_next h with ⟨p, _, hedge⟩ | ⟨_, rfl⟩
  · exact clockEdge_keeps_cntInRange (s := s.advance) hs hedge
  · exact cntInRange_powerUp s.advance

/-! ### The presented response -/

theorem responseIsExecuted_of_not_presents {s : State} (h : s.presents = false) : s.responseIsExecuted := by
  simp [State.responseIsExecuted, h]

/-- The result edge establishes what the invariant says of a response: it keeps the word and payload it has executed. -/
theorem responseIsExecuted_present_execute (s : State) : (s.present (execute s.cmdQ s.payQ)).responseIsExecuted :=
  fun _ => rfl

theorem clockEdge_keeps_responseIsExecuted {lat : Nat} {p : Pins} {s t : State} (hs : s.responseIsExecuted)
    (h : clockEdge lat p s = .next t) : t.responseIsExecuted := by
  rcases clockEdge_next h with ⟨_, rfl⟩ | ⟨_, _, _, rfl⟩ | ⟨_, _, _, _, rfl⟩ | ⟨w, d, _, _, _, _, _, _, rfl⟩ |
    ⟨_, _, _, _, rfl⟩ | ⟨_, _, _, _, hresult⟩ | ⟨_, _, _, _, rfl⟩ | ⟨_, _, _, _, rfl⟩
  · -- reset edge
    exact responseIsExecuted_of_not_presents (State.presents_resetEdge s lat)
  · -- wait for the first reset
    exact responseIsExecuted_of_not_presents (State.presents_powerUp s lat)
  · -- hold in IDLE
    exact hs
  · -- acceptance edge
    exact responseIsExecuted_of_not_presents (State.presents_accept s lat w d)
  · -- busy edge
    exact hs
  · -- result edge
    rw [resultEdge_eq] at hresult
    cases hresult
    exact responseIsExecuted_present_execute s
  · -- consumption edge
    exact responseIsExecuted_of_not_presents (State.presents_consume s)
  · -- hold in RESP
    exact hs

theorem step_keeps_responseIsExecuted {s t : State} (hs : s.responseIsExecuted) (h : step s = .next t) :
    t.responseIsExecuted := by
  rcases cycle_next h with ⟨p, _, hedge⟩ | ⟨_, rfl⟩
  · exact clockEdge_keeps_responseIsExecuted (s := s.advance) hs hedge
  · exact responseIsExecuted_of_not_presents (State.presents_powerUp _ _)

/-! ### A response that is not taken -/

/-- A stalled edge in RESP only uses up the stimulus (R33). -/
theorem step_of_stall {s : State} {x : Stimulus} (ha : s.awaitsReset = false) (hf : s.fsm = .resp)
    (hs : s.stimulus = x) (hx : x.stalls = true) : step s = .next s.advance := by
  obtain ⟨p, rfl, hdef, hrst, hready⟩ := x.stalls_iff.mp hx
  exact step_in_resp ha hs hdef hrst hf hready

/-- Outputs that show a response do not change as steps are counted: they read no free draw. -/
theorem outputs_advance_of_presents {s : State} (h : s.presents = true) : outputs s.advance = outputs s := by
  rw [outputs_of_presents h, outputs_of_presents (s := s.advance) h]
  rfl

theorem stalled_run_keeps_response (k : Nat) (s : State) (ha : s.awaitsReset = false) (hf : s.fsm = .resp)
    (hlen : k ≤ s.script.length) (hstall : ∀ x ∈ s.script.take k, x.stalls = true) :
    ∃ t, runSteps k s = .next t ∧ t.fsm = .resp ∧ outputs t = outputs s ∧ accepted k s = [] := by
  induction k generalizing s with
  | zero => exact ⟨s, rfl, hf, rfl, rfl⟩
  | succ k ih =>
    obtain ⟨x, xs, hscript⟩ := List.exists_cons_of_length_pos (Nat.zero_lt_of_lt hlen)
    have hadv : s.advance.script = xs := by rw [State.advance_script, hscript, List.tail_cons]
    rw [hscript, List.length_cons] at hlen
    simp only [hscript, List.take_succ_cons, List.forall_mem_cons] at hstall
    obtain ⟨hx, hxs⟩ := hstall
    have hstep : step s = .next s.advance := step_of_stall ha hf (State.stimulus_of_script hscript) hx
    have hnone : s.acceptedNow = none := acceptedNow_eq_none (by simp [hf])
    have hout : outputs s.advance = outputs s := outputs_advance_of_presents (s.presents_iff.mpr ⟨hf, ha⟩)
    obtain ⟨t, hrun, htf, htout, hacc⟩ :=
      ih s.advance ha hf (by rw [hadv]; omega) (by rw [hadv]; exact hxs)
    refine ⟨t, ?_, htf, htout.trans hout, ?_⟩
    · rw [runSteps_succ hstep, hrun]
    · rw [accepted_succ hstep, hnone, hacc]
      rfl

end Sys2Proof.Machine
end

section
/-! PROOF. The statements about the state, each from the rules above. -/

namespace Sys2Proof.Machine

/-- Settles O46: the two halves are kept independently of each other. -/
theorem everyStepKeepsTheInvariant : Obligations.EveryStepKeepsTheInvariant :=
  fun _ _ ⟨hcnt, hresp⟩ h => ⟨step_keeps_cntInRange hcnt h, step_keeps_responseIsExecuted hresp h⟩

/-- Settles O25, by the three sources of flags. -/
theorem flagsAreSetByTheirCommandsOnly : Obligations.FlagsAreSetByTheirCommandsOnly := by
  intro w p
  rcases execute_flags_cases w p with hflags | ⟨hw, hok, hflags⟩ | ⟨hw, hflags⟩ <;> rw [hflags]
  case inl => simp
  case inr.inl => exact ⟨fun _ => ⟨hw, hok⟩, fun _ => .inl ⟨hw, hok⟩, getLsbD_three_packFlags _ _ _⟩
  case inr.inr => exact ⟨by simp, fun _ => .inr hw, getLsbD_three_packFlags _ _ _⟩

/-- Settles O45. -/
theorem cntStaysInRange : Obligations.CntStaysInRange := fun _ _ => step_keeps_cntInRange

/-- Settles O50, by induction on the number of stalled edges. -/
theorem untakenResponseStays : Obligations.UntakenResponseStays := fun s k => stalled_run_keeps_response k s

/-- Settles O33. -/
theorem stepRunsTheDecodedCommand : Obligations.StepRunsTheDecodedCommand := by
  intro s p i ha hs hdef hrst hf hcnt hword _
  calc step s = busyEdge s.advance := step_in_busy ha hs hdef hrst hf
    _ = resultEdge s.advance := busyEdge_of_zero hcnt
    _ = exec i s.advance := resultEdge_of_decodeWord hword

/-- Settles O35. -/
theorem acceptanceCapturesTheCommand : Obligations.AcceptanceCapturesTheCommand := by
  intro s p w d ha hs hdef hrst hf hv hw hd
  have hstep : step s = .next (s.advance.accept Config.lat w d) :=
    (step_in_idle ha hs hdef hrst hf hv).trans (idleEdge_accept hw hd _ _)
  exact ⟨_, hstep, rfl, rfl, rfl, rfl, rfl, ha⟩

/-- Settles O36. -/
theorem busyEdgeCountsDown : Obligations.BusyEdgeCountsDown := by
  intro s p ha hs hdef hrst hf hcnt
  have hstep : step s = .next s.advance.countDown :=
    (step_in_busy ha hs hdef hrst hf).trans (busyEdge_of_pos hcnt)
  exact ⟨_, hstep, rfl, rfl, rfl, rfl, rfl, ha⟩

/-- Settles O37. -/
theorem consumptionReturnsToIdle : Obligations.ConsumptionReturnsToIdle := by
  intro s p ha hs hdef hrst hf hready
  have hstep : step s = .next s.advance.consume :=
    (step_in_resp ha hs hdef hrst hf hready).trans (respEdge_take _)
  exact ⟨_, hstep, rfl, rfl, rfl, rfl, rfl, ha⟩

/-- Settles O38: in both controller states the step is the bookkeeping alone. -/
theorem holdChangesNothing : Obligations.HoldChangesNothing := by
  intro s p ha hs hdef hrst hhold
  have hstep : step s = .next s.advance := by
    rcases hhold with ⟨hf, hv⟩ | ⟨hf, hready⟩
    · exact (step_in_idle ha hs hdef hrst hf hv).trans (idleEdge_hold _ _ _)
    · exact (step_in_resp ha hs hdef hrst hf hready).trans (respEdge_hold _)
  exact ⟨_, hstep, rfl, rfl, rfl, rfl, rfl, ha⟩

/-- Settles O40. -/
theorem resetIsReadyForACommand : Obligations.ResetIsReadyForACommand := by
  refine ⟨State.reset_fsm, outputs_cmdReady State.reset_awaitsReset, outputs_rspValid State.reset_awaitsReset, ?_⟩
  intro s p hs hdef hrst
  have hawaits : (s.advance.resetEdge Config.lat).awaitsReset = false := State.resetEdge_awaitsReset _ _
  exact ⟨_, step_at_reset hs hdef hrst, outputs_cmdReady hawaits, outputs_rspValid hawaits⟩

/-- Settles O42. -/
theorem outputsFollowTheState : Obligations.OutputsFollowTheState := by
  intro s ha
  have hready : (outputs s).cmdReady = true ↔ s.fsm = .idle := by rw [outputs_cmdReady ha, beq_iff_eq]
  have hvalid : (outputs s).rspValid = true ↔ s.fsm = .resp := by rw [outputs_rspValid ha, beq_iff_eq]
  refine ⟨hready, hvalid, fun h => ?_⟩
  rw [outputs_of_presents (s.presents_iff.mpr ⟨hvalid.mp h, ha⟩)]
  exact ⟨rfl, rfl, rfl⟩

/-- Settles O47. -/
theorem invariantHoldsAtReset : Obligations.InvariantHoldsAtReset :=
  ⟨lat_pos, responseIsExecuted_of_not_presents State.presents_reset⟩

end Sys2Proof.Machine
end

section
/-! PROOF. The two ROMs block by block (20_memory.md R41, R44), that each undoes the other (R45), and that the readers of
the alphabet ROM see none of its words from 62 on (R42). -/

namespace Sys2Proof.Machine

/-! ### The three blocks of the alphabet ROM (R41) -/

theorem alpha_numeral {n : Nat} (h : n < 10) : alpha (BitVec.ofNat 6 n) = BitVec.ofNat 8 (0x30 + n) := by
  have hn : n % 64 = n := Nat.mod_eq_of_lt (by omega)
  simp [alpha, hn, h]

theorem alpha_lowercase {n : Nat} (h : n < 26) : alpha (BitVec.ofNat 6 (10 + n)) = BitVec.ofNat 8 (0x61 + n) := by
  have hn : (10 + n) % 64 = 10 + n := Nat.mod_eq_of_lt (by omega)
  have hlt : 10 + n < 36 := by omega
  simp [alpha, hn, hlt]

theorem alpha_uppercase {n : Nat} (h : n < 26) : alpha (BitVec.ofNat 6 (36 + n)) = BitVec.ofNat 8 (0x41 + n) := by
  have hn : (36 + n) % 64 = 36 + n := Nat.mod_eq_of_lt (by omega)
  have hge : ¬ 36 + n < 10 := by omega
  have hlt : 36 + n < 62 := by omega
  simp [alpha, hn, hge, hlt]

/-! ### The three blocks of the reverse-lookup ROM (R44) -/

theorem rlut_numeral {n : Nat} (h : n < 10) : rlut (BitVec.ofNat 8 (0x30 + n)) = rlutEntry n := by
  have hn : (0x30 + n) % 256 = 0x30 + n := Nat.mod_eq_of_lt (by omega)
  have hle : 0x30 + n ≤ 0x39 := by omega
  simp [rlut, hn, hle]

theorem rlut_lowercase {n : Nat} (h : n < 26) : rlut (BitVec.ofNat 8 (0x61 + n)) = rlutEntry (10 + n) := by
  have hn : (0x61 + n) % 256 = 0x61 + n := Nat.mod_eq_of_lt (by omega)
  have hge : ¬ 0x61 + n ≤ 0x39 := by omega
  have hle : 0x61 + n ≤ 0x7A := by omega
  have hd : 0x61 + n - 0x57 = 10 + n := by omega
  simp [rlut, hn, hge, hle, hd]

theorem rlut_uppercase {n : Nat} (h : n < 26) : rlut (BitVec.ofNat 8 (0x41 + n)) = rlutEntry (36 + n) := by
  have hn : (0x41 + n) % 256 = 0x41 + n := Nat.mod_eq_of_lt (by omega)
  have hge : ¬ 0x41 + n ≤ 0x39 := by omega
  have hlt : ¬ 0x61 ≤ 0x41 + n := by omega
  have hle : 0x41 + n ≤ 0x5A := by omega
  have hd : 0x41 + n - 0x1D = 36 + n := by omega
  simp [rlut, hn, hge, hlt, hle, hd]

/-- A digit is in one of the three blocks of the alphabet. -/
theorem digit_block {n : Nat} (h : n < 62) : n < 10 ∨ (∃ m < 26, n = 10 + m) ∨ ∃ m < 26, n = 36 + m := by
  rcases lt_or_ge n 10 with hnum | hge
  · exact .inl hnum
  · rcases lt_or_ge n 36 with hlow | hup
    · exact .inr (.inl ⟨n - 10, by omega, by omega⟩)
    · exact .inr (.inr ⟨n - 36, by omega, by omega⟩)

/-- A code whose word is valid is in one of the three blocks of codes. -/
theorem code_block {c : Byte} (h : rlutValid c = true) :
    (∃ n < 10, c = BitVec.ofNat 8 (0x30 + n)) ∨ (∃ n < 26, c = BitVec.ofNat 8 (0x61 + n)) ∨
      ∃ n < 26, c = BitVec.ofNat 8 (0x41 + n) := by
  have hc : ∀ a n, c.toNat = a + n → c = BitVec.ofNat 8 (a + n) := fun a n hn => by
    rw [← hn, BitVec.ofNat_toNat, BitVec.setWidth_eq]
  unfold rlutValid rlut at h
  split_ifs at h with hnum hlow hup
  · exact .inl ⟨c.toNat - 0x30, by omega, hc _ _ (by omega)⟩
  · exact .inr (.inl ⟨c.toNat - 0x61, by omega, hc _ _ (by omega)⟩)
  · exact .inr (.inr ⟨c.toNat - 0x41, by omega, hc _ _ (by omega)⟩)
  · simp at h

/-! ### Each ROM undoes the other (R45) -/

theorem rlut_alpha {n : Nat} (h : n < 62) : rlut (alpha (BitVec.ofNat 6 n)) = rlutEntry n := by
  rcases digit_block h with hnum | ⟨m, hm, rfl⟩ | ⟨m, hm, rfl⟩
  · rw [alpha_numeral hnum, rlut_numeral hnum]
  · rw [alpha_lowercase hm, rlut_lowercase hm]
  · rw [alpha_uppercase hm, rlut_uppercase hm]

theorem rlutDigit_of_entry {c : Byte} {n : Nat} (h : rlut c = rlutEntry n) : rlutDigit c = BitVec.ofNat 6 n := by
  rw [rlutDigit, h, rlutEntry, BitVec.extractLsb'_append_eq_right]

theorem alpha_rlutDigit {c : Byte} (h : rlutValid c = true) : alpha (rlutDigit c) = c := by
  rcases code_block h with ⟨n, hn, rfl⟩ | ⟨n, hn, rfl⟩ | ⟨n, hn, rfl⟩
  · rw [rlutDigit_of_entry (rlut_numeral hn), alpha_numeral hn]
  · rw [rlutDigit_of_entry (rlut_lowercase hn), alpha_lowercase hn]
  · rw [rlutDigit_of_entry (rlut_uppercase hn), alpha_uppercase hn]

/-! ### The readers of the alphabet ROM with another ROM (R40, R42) -/

section AnotherRom

variable {rom : BitVec 6 → Byte} (hrom : ∀ d : BitVec 6, d.toNat < 62 → rom d = alpha d)
include hrom

/-- The encoder looks up digits only, and a digit is below 62. -/
theorem encodeDigit_of_rom_agrees (low high : Nat) : encodeDigit rom low high = encodeDigit alpha low high := by
  have hdigit : ∀ v k, rom (BitVec.ofNat 6 (digit v k)) = alpha (BitVec.ofNat 6 (digit v k)) := fun v k =>
    hrom _ ((Nat.mod_le _ _).trans_lt (digit_lt v k))
  funext out k
  rw [encodeDigit, encodeDigit, hdigit, hdigit]

theorem encodeChars_of_rom_agrees (id : Ident) : encodeChars rom id = encodeChars alpha id := by
  rw [encodeChars, encodeChars, encodeDigit_of_rom_agrees hrom]

/-- ALPHA_RD checks the index before it reads the ROM. -/
theorem alphaRdResponse_of_rom_agrees (idx : Byte) : alphaRdResponse rom idx = alphaRdResponse alpha idx := by
  unfold alphaRdResponse
  split_ifs with hbad
  · rfl
  · have hidx : (idx.setWidth 6).toNat < 62 := by
      rw [BitVec.toNat_setWidth]
      exact (Nat.mod_le _ _).trans_lt (Nat.lt_of_not_le hbad)
    rw [hrom _ hidx]

end AnotherRom

end Sys2Proof.Machine
end

section
/-! PROOF. The identifier and its halves as base-256 numbers (20_memory.md R46). -/

namespace Sys2Proof.Machine

/-- The n low base-256 digits of a number, weighed, are the number modulo 256^n. -/
theorem sum_base256_digits (v n : Nat) : ∑ i ∈ Finset.range n, v / 256 ^ i % 256 * 256 ^ i = v % 256 ^ n := by
  induction n with
  | zero => simp [Nat.mod_one]
  | succ n ih => rw [Finset.sum_range_succ, ih, Nat.mod_pow_succ, Nat.mul_comm (256 ^ n)]

/-- Eight bytes make a half. -/
theorem base256_eight_digits : 256 ^ 8 = 2 ^ 64 := by norm_num

theorem toNat_byteOf (id : Ident) (i : Nat) : (byteOf id i).toNat = id.toNat / 256 ^ i % 256 := by
  rw [byteOf, BitVec.extractLsb'_toNat, Nat.shiftRight_eq_div_pow, Nat.pow_mul]

theorem toNat_lowHalf (id : Ident) : (lowHalf id).toNat = id.toNat % 2 ^ 64 := by
  rw [lowHalf, BitVec.extractLsb'_toNat, Nat.shiftRight_zero]

theorem toNat_highHalf (id : Ident) : (highHalf id).toNat = id.toNat / 2 ^ 64 := by
  have hid : id.toNat / 2 ^ 64 < 2 ^ 64 := Nat.div_lt_of_lt_mul id.isLt
  rw [highHalf, BitVec.extractLsb'_toNat, Nat.shiftRight_eq_div_pow, Nat.mod_eq_of_lt hid]

/-- Bytes 8 to 15 of the identifier are bytes 0 to 7 of its high half. -/
theorem toNat_byteOf_high (id : Ident) (i : Nat) :
    (byteOf id (8 + i)).toNat = (highHalf id).toNat / 256 ^ i % 256 := by
  rw [toNat_byteOf, toNat_highHalf, Nat.div_div_eq_div_mul, Nat.pow_add, base256_eight_digits]

end Sys2Proof.Machine
end

section
/-! PROOF. What a command presents, and which command the words of ENCODE and ALPHA_RD run. -/

namespace Sys2Proof.Machine

/-! ### What running a command does, whatever the command is (R30, R51) -/

/-- Each command presents a response that it computes from the captured payload. -/
theorem exec_presents (i : Instr) : ∃ f : Bus → Response, ∀ s, exec i s = .next (s.present (f s.payQ)) := by
  cases i with
  | encode => exact ⟨encodeResponse, exec_encode⟩
  | decode strict len => exact ⟨decodeResponse strict len, exec_decode strict len⟩
  | alphaRd idx => exact ⟨fun _ => alphaRdResponse alpha idx, exec_alphaRd idx⟩
  | rlutRd code => exact ⟨fun _ => rlutRdResponse code, exec_rlutRd code⟩

theorem onlyResponds_present (s : State) (r : Response) : s.onlyResponds (s.present r) :=
  ⟨rfl, rfl, rfl, rfl, rfl, rfl, rfl⟩

/-! ### The words of ENCODE and ALPHA_RD (R66, R70) -/

theorem execute_encode_word (p : Bus) : execute 0x0001 p = encodeResponse p := rfl

theorem argField_append (arg op : Byte) : argField (arg ++ op) = arg := BitVec.extractLsb'_append_eq_left

/-- A mask that leaves out ARG sees OP, S and the reserved bits alone. -/
theorem append_and_low_mask (arg op mask : Byte) : (arg ++ op : CmdWord) &&& (0#8 ++ mask) = 0#8 ++ (op &&& mask) := by
  rw [BitVec.and_append, BitVec.and_zero]

/-- The row of R66 that ARG `idx` and OP 3 select is the third. -/
theorem execute_alphaRd_word (idx : Byte) (p : Bus) : execute (idx ++ 0x03#8) p = alphaRdResponse alpha idx := by
  have hencode : ¬ (idx ++ 0x03#8 : CmdWord) &&& 0xFFFF = 0x0001 := fun h => by
    have hop := congrArg (BitVec.extractLsb' 0 8) ((BitVec.and_allOnes (x := idx ++ 0x03#8)).symm.trans h)
    rw [BitVec.extractLsb'_append_eq_right] at hop
    exact absurd hop (by decide)
  have hdecode : ¬ (idx ++ 0x03#8 : CmdWord) &&& 0x00EF = 0x0002 := by
    have hmask := append_and_low_mask idx 0x03 0xEF
    exact fun h => absurd (hmask.symm.trans h) (by decide)
  have halpha : (idx ++ 0x03#8 : CmdWord) &&& 0x00FF = 0x0003 := append_and_low_mask idx 0x03 0xFF
  rw [execute, if_neg hencode, if_neg hdecode, if_pos halpha, argField_append]

end Sys2Proof.Machine
end

section
/-! PROOF. What is in flight: a step neither loses nor invents a command (10_state.md R22, R31; 20_memory.md R51). -/

namespace Sys2Proof.Machine

/-! ### What is accepted and what is taken at an edge -/

theorem acceptedNow_of_offer {s : State} {p : Pins} {w : CmdWord} {d : Bus} (hs : s.stimulus = .edge p)
    (ha : s.awaitsReset = false) (hf : s.fsm = .idle) (hrst : p.rst = some false) (hv : p.cmdValid = some true)
    (hw : p.cmdWord = some w) (hd : p.cmdPayload = some d) : s.acceptedNow = some ⟨w, d⟩ := by
  simp [State.acceptedNow, hs, ha, hf, hrst, hv, hw, hd]

theorem acceptedNow_of_no_offer {s : State} {p : Pins} (hs : s.stimulus = .edge p) (hv : p.cmdValid = some false) :
    s.acceptedNow = none := by
  simp only [State.acceptedNow, hs]
  split
  · simp [hv]
  · rfl

theorem consumedNow_of_take {s : State} {p : Pins} (hs : s.stimulus = .edge p) (hpres : s.presents = true)
    (hrst : p.rst = some false) (hr : p.rspReady = some true) : s.consumedNow = some s.response := by
  simp [State.consumedNow, hs, hpres, hrst, hr]

theorem consumedNow_of_not_ready {s : State} {p : Pins} (hs : s.stimulus = .edge p) (hr : p.rspReady = some false) :
    s.consumedNow = none := by
  simp [State.consumedNow, hs, hr]

theorem consumedNow_of_not_presents {s : State} (h : s.presents = false) : s.consumedNow = none := by
  unfold State.consumedNow
  split
  · simp [h]
  · rfl

theorem not_presents_of_fsm_ne {s : State} (h : s.fsm ≠ .resp) : s.presents = false := by
  simp [State.presents, h]

theorem not_presents_of_awaitsReset {s : State} (h : s.awaitsReset = true) : s.presents = false := by
  simp [State.presents, h]

/-! ### The command in flight -/

/-- The command accepted and not yet answered to the host: the captured one, in BUSY and RESP (R22, R24); none while power
has come and no reset edge has (R182). -/
def State.inFlight (s : State) : Option Command :=
  if s.fsm = .idle ∨ s.awaitsReset = true then none else some ⟨s.cmdQ, s.payQ⟩

theorem inFlight_of_idle {s : State} (h : s.fsm = .idle) : s.inFlight = none := if_pos (.inl h)

theorem inFlight_of_awaitsReset {s : State} (h : s.awaitsReset = true) : s.inFlight = none := if_pos (.inr h)

theorem inFlight_of_captured {s : State} (hf : s.fsm ≠ .idle) (ha : s.awaitsReset = false) :
    s.inFlight = some ⟨s.cmdQ, s.payQ⟩ :=
  if_neg (by simp [hf, ha])

@[simp] theorem inFlight_advance (s : State) : s.advance.inFlight = s.inFlight := rfl
@[simp] theorem inFlight_countDown (s : State) : s.countDown.inFlight = s.inFlight := rfl

/-- Only the result edge moves from BUSY to RESP, and it keeps the command in flight. -/
theorem inFlight_present {s : State} (h : s.fsm = .busy) (r : Response) : (s.present r).inFlight = s.inFlight := by
  simp [State.inFlight, h]

/-! ### One step -/

/-- Conservation over an edge without a reset: the results of what is in flight before it and of what it accepts are the
response it hands over and the result of what is in flight after it, in this order. -/
theorem step_conserves_commands {s t : State} (hresp : s.responseIsExecuted) (hruns : s.stimulus.runs = true)
    (h : step s = .next t) :
    (s.inFlight.toList ++ s.acceptedNow.toList).map Command.result =
      s.consumedNow.toList ++ t.inFlight.toList.map Command.result := by
  obtain ⟨p, _, _, hs, hrst, _, _⟩ := s.stimulus.runs_iff.mp hruns
  rw [step_of_edge hs] at h
  rcases clockEdge_next h with ⟨hreset, _⟩ | ⟨_, ha, hv, rfl⟩ | ⟨_, _, hf, hv, rfl⟩ |
    ⟨w, d, _, ha, hf, hv, hw, hd, rfl⟩ | ⟨_, _, hf, _, rfl⟩ | ⟨_, _, hf, _, hresult⟩ | ⟨_, ha, hf, hr, rfl⟩ | ⟨_, _, hf, hr, rfl⟩
  · -- reset edge: the stimulus has none
    simp [hrst] at hreset
  · -- wait for the first reset: nothing is in flight
    have ha : s.awaitsReset = true := ha
    rw [acceptedNow_of_no_offer hs hv, consumedNow_of_not_presents (not_presents_of_awaitsReset ha),
      inFlight_of_awaitsReset ha, inFlight_of_awaitsReset (State.powerUp_awaitsReset _ _)]
    rfl
  · -- hold in IDLE
    have hf : s.fsm = .idle := hf
    rw [acceptedNow_of_no_offer hs hv, consumedNow_of_not_presents (not_presents_of_fsm_ne (by simp [hf])),
      inFlight_advance]
    simp
  · -- acceptance edge: what is accepted is what is in flight after it
    have hf : s.fsm = .idle := hf
    have hflight : (s.advance.accept Config.lat w d).inFlight = some ⟨w, d⟩ := inFlight_of_captured (by simp) ha
    rw [acceptedNow_of_offer hs ha hf hrst hv hw hd, consumedNow_of_not_presents (not_presents_of_fsm_ne (by simp [hf])),
      inFlight_of_idle hf, hflight]
    rfl
  · -- busy edge
    have hf : s.fsm = .busy := hf
    rw [acceptedNow_eq_none (by simp [hf]), consumedNow_of_not_presents (not_presents_of_fsm_ne (by simp [hf])),
      inFlight_countDown, inFlight_advance]
    simp
  · -- result edge
    have hf' : s.fsm = .busy := hf
    rw [resultEdge_eq] at hresult
    cases hresult
    rw [acceptedNow_eq_none (by simp [hf']), consumedNow_of_not_presents (not_presents_of_fsm_ne (by simp [hf'])),
      inFlight_present hf, inFlight_advance]
    simp
  · -- consumption edge: by the invariant the response handed over is the result of what was in flight
    have hf : s.fsm = .resp := hf
    have ha : s.awaitsReset = false := ha
    have hpres : s.presents = true := s.presents_iff.mpr ⟨hf, ha⟩
    rw [acceptedNow_eq_none (by simp [hf]), consumedNow_of_take hs hpres hrst hr, hresp hpres,
      inFlight_of_captured (by simp [hf]) ha, inFlight_of_idle (State.consume_fsm _)]
    rfl
  · -- hold in RESP
    have hf : s.fsm = .resp := hf
    rw [acceptedNow_eq_none (by simp [hf]), consumedNow_of_not_ready hs hr, inFlight_advance]
    simp

/-- A step that answers a next state uses up the head of the script. -/
theorem step_script {s t : State} (h : step s = .next t) : t.script = s.script.tail := by
  rcases cycle_next h with ⟨p, _, hedge⟩ | ⟨_, rfl⟩
  · rcases clockEdge_next hedge with ⟨_, rfl⟩ | ⟨_, _, _, rfl⟩ | ⟨_, _, _, _, rfl⟩ | ⟨w, d, _, _, _, _, _, _, rfl⟩ |
      ⟨_, _, _, _, rfl⟩ | ⟨_, _, _, _, hresult⟩ | ⟨_, _, _, _, rfl⟩ | ⟨_, _, _, _, rfl⟩
    case inr.inr.inr.inr.inr.inl => -- result edge
      rw [resultEdge_eq] at hresult
      cases hresult
      exact State.present_script _ _
    all_goals rfl
  · exact State.powerUp_script _ _

/-! ### A run -/

/-- A property of the next k + 1 scripted stimuli is one of the stimulus at hand and of the k that follow it. -/
theorem stimulus_and_tail_of_take {P : Stimulus → Prop} {s : State} {k : Nat} (hlen : k + 1 ≤ s.script.length)
    (hP : ∀ x ∈ s.script.take (k + 1), P x) :
    P s.stimulus ∧ k ≤ s.script.tail.length ∧ ∀ x ∈ s.script.tail.take k, P x := by
  obtain ⟨x, xs, hscript⟩ := List.exists_cons_of_length_pos (Nat.zero_lt_of_lt hlen)
  rw [State.stimulus_of_script hscript]
  simp only [hscript, List.take_succ_cons, List.forall_mem_cons, List.length_cons, List.tail_cons] at hP hlen ⊢
  exact ⟨hP.1, Nat.le_of_succ_le_succ hlen, hP.2⟩

/-- Conservation over a run without a reset: the results of what is in flight and of what is accepted are the responses
taken, in order, and then the result of at most one command still in flight. -/
theorem run_conserves_commands (k : Nat) (s : State) (hresp : s.responseIsExecuted) (hlen : k ≤ s.script.length)
    (hruns : ∀ x ∈ s.script.take k, x.runs = true) :
    ∃ c : Option Command,
      (s.inFlight.toList ++ accepted k s).map Command.result = observed k s ++ c.toList.map Command.result := by
  induction k generalizing s with
  | zero => exact ⟨s.inFlight, by simp [accepted, observed]⟩
  | succ k ih =>
    obtain ⟨hhead, htlen, htail⟩ := stimulus_and_tail_of_take hlen hruns
    cases hstep : step s with
    | next t =>
      obtain ⟨c, hc⟩ := ih t (step_keeps_responseIsExecuted hresp hstep)
        (by rwa [step_script hstep]) (by rwa [step_script hstep])
      refine ⟨c, ?_⟩
      calc (s.inFlight.toList ++ accepted (k + 1) s).map Command.result
          = (s.inFlight.toList ++ s.acceptedNow.toList).map Command.result ++ (accepted k t).map Command.result := by
            rw [accepted_succ hstep, ← List.append_assoc, List.map_append]
        _ = s.consumedNow.toList ++ (t.inFlight.toList ++ accepted k t).map Command.result := by
            rw [step_conserves_commands hresp hhead hstep, List.append_assoc, ← List.map_append]
        _ = observed (k + 1) s ++ c.toList.map Command.result := by
            rw [hc, observed_succ hstep, List.append_assoc]
    | fault r => exact ⟨s.inFlight, by simp [accepted, observed, hstep]⟩
    | refused r => exact ⟨s.inFlight, by simp [accepted, observed, hstep]⟩

end Sys2Proof.Machine
end

section
/-! PROOF. The statements about the memory and the order of the responses, each from the rules above. -/

namespace Sys2Proof.Machine

/-- Settles O7. -/
theorem responseIgnoresTheRestOfTheState : Obligations.ResponseIgnoresTheRestOfTheState := by
  intro i s s' hpay
  obtain ⟨f, hf⟩ := exec_presents i
  refine ⟨_, _, hf s, hf s', ?_, onlyResponds_present s _, onlyResponds_present s' _⟩
  rw [State.response_present, State.response_present, hpay]

/-- Settles O8. -/
theorem romsAgree : Obligations.RomsAgree := by
  refine ⟨fun d hd => ?_, fun _ => alpha_rlutDigit, rlutDigit_of_invalid⟩
  have hentry := rlut_alpha hd
  rwa [rlutEntry, BitVec.ofNat_toNat, BitVec.setWidth_eq] at hentry

/-- Settles O10. -/
theorem spareAlphabetWordsAreNotRead : Obligations.SpareAlphabetWordsAreNotRead := by
  intro rom hrom
  refine ⟨fun p => ?_, fun idx p => ?_⟩
  · rw [encodeChars_of_rom_agrees hrom, execute_encode_word, encodeResponse]
  · rw [alphaRdResponse_of_rom_agrees hrom, execute_alphaRd_word]

/-- Settles O16: a half is eight base-256 digits of the identifier. -/
theorem halvesAreLittleEndian : Obligations.HalvesAreLittleEndian := by
  intro id
  refine ⟨?_, ?_, ?_⟩
  · simp only [toNat_byteOf]
    rw [sum_base256_digits, toNat_lowHalf, base256_eight_digits]
  · simp only [toNat_byteOf_high]
    rw [sum_base256_digits, base256_eight_digits, Nat.mod_eq_of_lt (highHalf id).isLt]
  · rw [toNat_highHalf, toNat_lowHalf]
    exact (Nat.div_add_mod' id.toNat (2 ^ 64)).symm

/-- Settles O52: nothing is in flight in IDLE, so conservation speaks of the accepted commands alone. -/
theorem responsesComeInAcceptanceOrder : Obligations.ResponsesComeInAcceptanceOrder := by
  intro s k hf hlen hruns
  have hresp : s.responseIsExecuted :=
    responseIsExecuted_of_not_presents (not_presents_of_fsm_ne (by simp [hf]))
  obtain ⟨c, hc⟩ := run_conserves_commands k s hresp hlen hruns
  simp only [inFlight_of_idle hf, Option.toList_none, List.nil_append] at hc
  have hlength : (accepted k s).length = (observed k s).length + c.toList.length := by
    simpa using congrArg List.length hc
  have hone : c.toList.length ≤ 1 := by cases c <;> simp
  exact ⟨by rw [hc, List.take_left], by omega, by omega⟩

end Sys2Proof.Machine
end

section
/-! PROOF. The fields of the command word (30_encoding.md R60), each row of the opcode map as a condition on them (R66), and
the decoder as the inverse of the encoder. -/

namespace Sys2Proof

/-! ### The layout of a word (R60) -/

/-- Bits [7:5], which every format reserves (R60). -/
def reservedField (w : CmdWord) : BitVec 3 := w.extractLsb' 5 3

/-- A word from all four of its fields, the reserved one free: ARG [15:8], reserved [7:5], S [4], OP [3:0] (R60). -/
def layout (arg : Byte) (res : BitVec 3) (s : Bool) (op : BitVec 4) : CmdWord := arg ++ (res ++ (BitVec.ofBool s ++ op))

section Layout

variable (arg arg' : Byte) (res res' : BitVec 3) (s s' : Bool) (op op' : BitVec 4)

theorem wordOfFields_eq_layout : wordOfFields arg s op = layout arg 0 s op := rfl

@[simp] theorem argField_layout : argField (layout arg res s op) = arg := BitVec.extractLsb'_append_eq_left

@[simp] theorem reservedField_layout : reservedField (layout arg res s op) = res := by
  rw [reservedField, layout, BitVec.extractLsb'_append_eq_of_add_le (by decide)]
  exact BitVec.extractLsb'_append_eq_left

@[simp] theorem strictField_layout : strictField (layout arg res s op) = s := by
  rw [strictField, layout, BitVec.getLsbD_append, BitVec.getLsbD_append, BitVec.getLsbD_append]
  simp

@[simp] theorem opField_layout : opField (layout arg res s op) = op := by
  rw [opField, layout, BitVec.extractLsb'_append_eq_of_add_le (by decide),
    BitVec.extractLsb'_append_eq_of_add_le (by decide), BitVec.extractLsb'_append_eq_right]

/-- The four fields are the whole word. -/
theorem layout_fields (w : CmdWord) : layout (argField w) (reservedField w) (strictField w) (opField w) = w := by
  have hs : BitVec.ofBool (strictField w) = w.extractLsb' 4 1 := by
    apply BitVec.eq_of_getLsbD_eq
    intro i hi
    obtain rfl : i = 0 := by omega
    simp [strictField]
  rw [layout, hs, opField, reservedField, argField,
    BitVec.extractLsb'_append_extractLsb'_eq_extractLsb' (show 4 = 0 + 4 from rfl),
    BitVec.extractLsb'_append_extractLsb'_eq_extractLsb' (show 5 = 0 + (1 + 4) from rfl),
    BitVec.extractLsb'_append_extractLsb'_eq_extractLsb' (show 8 = 0 + (3 + (1 + 4)) from rfl)]
  exact BitVec.extractLsb'_eq_self

theorem layout_inj :
    layout arg res s op = layout arg' res' s' op' ↔ arg = arg' ∧ res = res' ∧ s = s' ∧ op = op' := by
  constructor
  · intro h
    have harg := congrArg argField h
    have hres := congrArg reservedField h
    have hs := congrArg strictField h
    have hop := congrArg opField h
    simp only [argField_layout, reservedField_layout, strictField_layout, opField_layout] at harg hres hs hop
    exact ⟨harg, hres, hs, hop⟩
  · rintro ⟨rfl, rfl, rfl, rfl⟩
    rfl

/-- A mask acts on each field by itself. -/
theorem layout_and_layout :
    layout arg res s op &&& layout arg' res' s' op' = layout (arg &&& arg') (res &&& res') (s && s') (op &&& op') := by
  rw [layout, layout, BitVec.and_append, BitVec.and_append, BitVec.and_append, BitVec.ofBool_and_ofBool, layout]

end Layout

/-! ### What each row of the opcode map selects (R66) -/

section Rows

variable {w : CmdWord}

/-- The masks of R66 that leave ARG out cover OP and the reserved bits, and S or not. -/
theorem and_mask_iff (s : Bool) (op : BitVec 4) :
    w &&& layout 0#8 (BitVec.allOnes 3) s (BitVec.allOnes 4) = layout 0#8 0 false op ↔
      reservedField w = 0 ∧ (strictField w && s) = false ∧ opField w = op := by
  conv_lhs => rw [← layout_fields w, layout_and_layout, BitVec.and_zero, BitVec.and_allOnes, BitVec.and_allOnes, layout_inj]
  exact and_iff_right rfl

/-- Its mask covers every bit, so only its own word selects the row of ENCODE. -/
theorem encode_row_iff : w &&& 0xFFFF = 0x0001 ↔ w = encodeInstr .encode := by
  have hmask : w &&& 0xFFFF = w := BitVec.and_allOnes
  rw [hmask]
  rfl

theorem decode_row_iff : w &&& 0x00EF = 0x0002 ↔ reservedField w = 0 ∧ opField w = 2 := by
  have hrow : w &&& 0x00EF = 0x0002 ↔ _ := and_mask_iff false 2
  rw [hrow, Bool.and_false, eq_self, true_and]

theorem alphaRd_row_iff : w &&& 0x00FF = 0x0003 ↔ reservedField w = 0 ∧ strictField w = false ∧ opField w = 3 := by
  have hrow : w &&& 0x00FF = 0x0003 ↔ _ := and_mask_iff true 3
  rw [hrow, Bool.and_true]

theorem rlutRd_row_iff : w &&& 0x00FF = 0x0004 ↔ reservedField w = 0 ∧ strictField w = false ∧ opField w = 4 := by
  have hrow : w &&& 0x00FF = 0x0004 ↔ _ := and_mask_iff true 4
  rw [hrow, Bool.and_true]

/-- A mask that covers OP pins it to the pattern's. -/
theorem opField_of_masked {mask pattern : CmdWord} (h : w &&& mask = pattern) (hmask : opField mask = BitVec.allOnes 4) :
    opField w = opField pattern := by
  rw [← h, opField, opField, BitVec.extractLsb'_and]
  exact (hmask ▸ BitVec.and_allOnes).symm

/-- Two masked tests that want different OP values do not both pass: for two rows of the map, `decide` finds the premises. -/
theorem not_masked_of_masked {mask pattern mask' pattern' : CmdWord} (h : w &&& mask = pattern)
    (hmask : opField mask = BitVec.allOnes 4 := by decide) (hmask' : opField mask' = BitVec.allOnes 4 := by decide)
    (hne : opField pattern ≠ opField pattern' := by decide) : ¬ w &&& mask' = pattern' := fun h' =>
  hne ((opField_of_masked h hmask).symm.trans (opField_of_masked h' hmask'))

theorem decodeWord_of_decode_row (h : w &&& 0x00EF = 0x0002) :
    decodeWord w = .ok (.decode (strictField w) (argField w)) := by
  have hencode : ¬ w &&& 0xFFFF = 0x0001 := not_masked_of_masked h
  rw [decodeWord, if_neg hencode, if_pos h]

theorem decodeWord_of_alphaRd_row (h : w &&& 0x00FF = 0x0003) : decodeWord w = .ok (.alphaRd (argField w)) := by
  have hencode : ¬ w &&& 0xFFFF = 0x0001 := not_masked_of_masked h
  have hdecode : ¬ w &&& 0x00EF = 0x0002 := not_masked_of_masked h
  rw [decodeWord, if_neg hencode, if_neg hdecode, if_pos h]

theorem decodeWord_of_rlutRd_row (h : w &&& 0x00FF = 0x0004) : decodeWord w = .ok (.rlutRd (argField w)) := by
  have hencode : ¬ w &&& 0xFFFF = 0x0001 := not_masked_of_masked h
  have hdecode : ¬ w &&& 0x00EF = 0x0002 := not_masked_of_masked h
  have halpha : ¬ w &&& 0x00FF = 0x0003 := not_masked_of_masked h
  rw [decodeWord, if_neg hencode, if_neg hdecode, if_neg halpha, if_pos h]

end Rows

/-! ### The decoder is the inverse of the encoder (R60, R66) -/

section WordOfFields

variable (arg : Byte) (s : Bool) (op : BitVec 4)

@[simp] theorem argField_wordOfFields : argField (wordOfFields arg s op) = arg := argField_layout ..
@[simp] theorem strictField_wordOfFields : strictField (wordOfFields arg s op) = s := strictField_layout ..

end WordOfFields

theorem wordOfFields_of_fields {w : CmdWord} {s : Bool} {op : BitVec 4} (hres : reservedField w = 0)
    (hs : strictField w = s) (hop : opField w = op) : wordOfFields (argField w) s op = w := by
  rw [wordOfFields_eq_layout, ← hres, ← hs, ← hop, layout_fields]

/-- No bit of a legal word is dropped: the fields that its row leaves free are the operands, the others are fixed. -/
theorem encodeInstr_of_decodeWord {w : CmdWord} {i : Instr} (h : decodeWord w = .ok i) : encodeInstr i = w := by
  unfold decodeWord at h
  split_ifs at h with hencode hdecode halpha hrlut <;> cases h
  · exact (encode_row_iff.mp hencode).symm
  · obtain ⟨hres, hop⟩ := decode_row_iff.mp hdecode
    exact wordOfFields_of_fields hres rfl hop
  · obtain ⟨hres, hs, hop⟩ := alphaRd_row_iff.mp halpha
    exact wordOfFields_of_fields hres hs hop
  · obtain ⟨hres, hs, hop⟩ := rlutRd_row_iff.mp hrlut
    exact wordOfFields_of_fields hres hs hop

/-- The word of a command selects the row of that command, and the row's operands are the command's. -/
theorem decodeWord_encodeInstr (i : Instr) : decodeWord (encodeInstr i) = .ok i := by
  cases i with
  | encode => rfl
  | decode strict len =>
    rw [decodeWord_of_decode_row (Laws.MatchesRow.decode strict len), encodeInstr, strictField_wordOfFields,
      argField_wordOfFields]
  | alphaRd idx => rw [decodeWord_of_alphaRd_row (Laws.MatchesRow.alphaRd idx), encodeInstr, argField_wordOfFields]
  | rlutRd code => rw [decodeWord_of_rlutRd_row (Laws.MatchesRow.rlutRd code), encodeInstr, argField_wordOfFields]

/-! ### The opcode map has at most one row for a word (R66) -/

/-- The row that selects a word has the word's OP. -/
theorem opField_of_selects {r : OpcodeRow} {w : CmdWord} (hr : r ∈ opcodeMap) (h : r.selects w = true) :
    opField w = opField r.pattern := by
  have hmask : ∀ r ∈ opcodeMap, opField r.mask = BitVec.allOnes 4 := by decide
  exact opField_of_masked (beq_iff_eq.mp h) (hmask r hr)

/-- The OP values of the rows differ, so two rows that select one word are one row. -/
theorem eq_of_selects {r r' : OpcodeRow} {w : CmdWord} (hr : r ∈ opcodeMap) (hr' : r' ∈ opcodeMap)
    (h : r.selects w = true) (h' : r'.selects w = true) : r = r' := by
  have hpattern : ∀ r ∈ opcodeMap, ∀ r' ∈ opcodeMap, opField r.pattern = opField r'.pattern → r = r' := by decide
  exact hpattern r hr r' hr' ((opField_of_selects hr h).symm.trans (opField_of_selects hr' h'))

theorem row_mem_opcodeMap (i : Instr) : i.row ∈ opcodeMap := by
  cases i <;> simp [Instr.row, opcodeMap]

theorem row_selects_encodeInstr (i : Instr) : i.row.selects (encodeInstr i) = true := by
  have hrow : Laws.MatchesRow.Statement i := by
    cases i with
    | encode => exact Laws.MatchesRow.encode
    | decode strict len => exact Laws.MatchesRow.decode strict len
    | alphaRd idx => exact Laws.MatchesRow.alphaRd idx
    | rlutRd code => exact Laws.MatchesRow.rlutRd code
  exact beq_iff_eq.mpr hrow

theorem filter_opcodeMap_eq_row (i : Instr) : opcodeMap.filter (fun r => r = i.row) = [i.row] := by
  cases i <;> rfl

/-- A word that decodes selects the row of its command and no other. -/
theorem filter_selects_of_decodeWord_ok {w : CmdWord} {i : Instr} (h : decodeWord w = .ok i) :
    opcodeMap.filter (fun r => r.selects w) = [i.row] := by
  have hi : i.row.selects w = true := encodeInstr_of_decodeWord h ▸ row_selects_encodeInstr i
  rw [← filter_opcodeMap_eq_row i]
  refine List.filter_congr fun r hr => ?_
  rw [Bool.eq_iff_iff, decide_eq_true_iff]
  exact ⟨fun hsel => eq_of_selects hr (row_mem_opcodeMap i) hsel hi, fun he => he ▸ hi⟩

/-- The decoder refuses a word only when it has tried every row. -/
theorem filter_selects_of_decodeWord_error {w : CmdWord} {e : DecodeError} (h : decodeWord w = .error e) :
    opcodeMap.filter (fun r => r.selects w) = [] := by
  unfold decodeWord at h
  split_ifs at h with hencode hdecode halpha hrlut
  simp only [List.filter_eq_nil_iff, opcodeMap, List.forall_mem_cons, OpcodeRow.selects, beq_iff_eq]
  exact ⟨hencode, hdecode, halpha, hrlut, List.forall_mem_nil _⟩

end Sys2Proof
end

section
/-! PROOF. What the response of a legal word depends on (30_encoding.md R61) and how wide its data is (R62). -/

namespace Sys2Proof.Machine

/-! ### The response of a command -/

/-- The response that a command computes from its payload (R70). -/
def commandResponse : Instr → Bus → Response
  | .encode, p            => encodeResponse p
  | .decode strict len, p => decodeResponse strict len p
  | .alphaRd idx, _       => alphaRdResponse alpha idx
  | .rlutRd code, _       => rlutRdResponse code

/-- `Execute` of a word that decodes is the response of its command. -/
theorem execute_of_decodeWord {w : CmdWord} {i : Instr} (h : decodeWord w = .ok i) (p : Bus) :
    execute w p = commandResponse i p := by
  unfold decodeWord at h
  unfold execute
  split_ifs at h ⊢ <;> cases h <;> rfl

theorem execute_of_decode_row {w : CmdWord} (h : w &&& 0x00EF = 0x0002) (p : Bus) :
    execute w p = decodeResponse (strictField w) (argField w) p := execute_of_decodeWord (decodeWord_of_decode_row h) p

theorem execute_of_alphaRd_row {w : CmdWord} (h : w &&& 0x00FF = 0x0003) (p : Bus) :
    execute w p = alphaRdResponse alpha (argField w) := execute_of_decodeWord (decodeWord_of_alphaRd_row h) p

theorem execute_of_rlutRd_row {w : CmdWord} (h : w &&& 0x00FF = 0x0004) (p : Bus) :
    execute w p = rlutRdResponse (argField w) := execute_of_decodeWord (decodeWord_of_rlutRd_row h) p

theorem decodeResponse_of_wrong_length {len : Byte} (h : len ≠ 22) (strict : Bool) (p : Bus) :
    decodeResponse strict len p = errorResponse .wrongLength := if_pos h

/-! ### How wide the data is -/

/-- Data that is widened to the bus keeps its bound. -/
theorem toNat_setWidth_bus_lt {n : Nat} (x : BitVec n) : (x.setWidth 176).toNat < 2 ^ n := by
  rw [BitVec.toNat_setWidth]
  exact (Nat.mod_le _ _).trans_lt x.isLt

theorem errorResponse_data_lt (st : Status) (n : Nat) : (errorResponse st).data.toNat < 2 ^ n := Nat.two_pow_pos n

theorem decodeResponse_data_lt (strict : Bool) (len : Byte) (p : Bus) :
    (decodeResponse strict len p).data.toNat < 2 ^ 128 := by
  unfold decodeResponse
  split_ifs
  · exact errorResponse_data_lt _ _
  · exact errorResponse_data_lt _ _
  · exact toNat_setWidth_bus_lt (decodeIdent p)

theorem alphaRdResponse_data_lt (rom : BitVec 6 → Byte) (idx : Byte) : (alphaRdResponse rom idx).data.toNat < 2 ^ 8 := by
  unfold alphaRdResponse
  split_ifs
  · exact errorResponse_data_lt _ _
  · exact toNat_setWidth_bus_lt (rom (idx.setWidth 6))

theorem rlutRdResponse_data_lt (code : Byte) : (rlutRdResponse code).data.toNat < 2 ^ 6 :=
  toNat_setWidth_bus_lt (rlutDigit code)

end Sys2Proof.Machine
end

section
/-! PROOF. The assembler (30_encoding.md R71): the word of a line as a number, and the lanes of its payload. -/

namespace Sys2Proof.Machine

/-! ### The check of a line -/

theorem assemble_of_wellFormed {l : AsmLine} (h : l.wellFormed = true) : assemble l = some (lineCommand l) := if_pos h

theorem eq_lineCommand_of_assemble {l : AsmLine} {c : Command} (h : assemble l = some c) : c = lineCommand l := by
  unfold assemble at h
  split_ifs at h
  exact (Option.some.inj h).symm

/-- A line whose check is one bound assembles exactly within the bound. -/
theorem assemble_eq_ite {l : AsmLine} {P : Prop} [Decidable P] (h : l.wellFormed = decide P) :
    assemble l = if P then some (lineCommand l) else none := by
  simp [assemble, h]

/-! ### The word of a line as a number -/

/-- The word with ARG n is `n << 8` with the other fields put in. -/
theorem wordOfFields_ofNat {n : Nat} (hn : n ≤ 255) (s : Bool) (op : BitVec 4) :
    wordOfFields (BitVec.ofNat 8 n) s op = BitVec.ofNat 16 ((n <<< 8) ||| (0#3 ++ (BitVec.ofBool s ++ op)).toNat) := by
  have hn8 : (BitVec.ofNat 8 n).toNat = n := Nat.mod_eq_of_lt (by omega)
  have hword : (wordOfFields (BitVec.ofNat 8 n) s op).toNat = (n <<< 8) ||| (0#3 ++ (BitVec.ofBool s ++ op)).toNat := by
    rw [wordOfFields, BitVec.toNat_append, hn8]
  rw [← hword, BitVec.ofNat_toNat, BitVec.setWidth_eq]

theorem encodeInstr_decode_ofNat {n : Nat} (hn : n ≤ 255) (strict : Bool) :
    encodeInstr (.decode strict (BitVec.ofNat 8 n)) =
      BitVec.ofNat 16 ((n <<< 8) ||| if strict then 0x0012 else 0x0002) := by
  cases strict <;> exact wordOfFields_ofNat hn _ 0x2

theorem encodeInstr_alphaRd_ofNat {n : Nat} (hn : n ≤ 255) :
    encodeInstr (.alphaRd (BitVec.ofNat 8 n)) = BitVec.ofNat 16 ((n <<< 8) ||| 0x0003) := wordOfFields_ofNat hn false 0x3

theorem encodeInstr_rlutRd_ofNat {n : Nat} (hn : n ≤ 255) :
    encodeInstr (.rlutRd (BitVec.ofNat 8 n)) = BitVec.ofNat 16 ((n <<< 8) ||| 0x0004) := wordOfFields_ofNat hn false 0x4

/-- The word of a line DECODE or DECODE.S (R71). -/
theorem assemble_decode_word (strict : Bool) (len : Nat) (str : List Byte) :
    (assemble (.decode strict len str)).map Command.word =
      if len ≤ 255 then some (BitVec.ofNat 16 ((len <<< 8) ||| if strict then 0x0012 else 0x0002)) else none := by
  rw [assemble_eq_ite (P := len ≤ 255) rfl, apply_ite (Option.map Command.word)]
  exact ite_congr rfl (fun hlen => congrArg some (encodeInstr_decode_ofNat hlen strict)) fun _ => rfl

/-! ### The lanes of a payload -/

theorem packLanes_cons (b : Byte) (bs : List Byte) : packLanes (b :: bs) = (packLanes bs <<< 8) ||| b.setWidth 176 := rfl

theorem chr_packLanes_cons_zero (b : Byte) (bs : List Byte) : chr (packLanes (b :: bs)) 0 = b := by
  apply BitVec.eq_of_getLsbD_eq
  intro j hj
  have hj' : j < 176 := by omega
  rw [getLsbD_chr, packLanes_cons, BitVec.getLsbD_or, BitVec.getLsbD_shiftLeft, BitVec.getLsbD_setWidth]
  simp [hj, hj']

theorem chr_packLanes_cons_succ (b : Byte) (bs : List Byte) {q : Nat} (hq : q + 1 < 22) :
    chr (packLanes (b :: bs)) (q + 1) = chr (packLanes bs) q := by
  apply BitVec.eq_of_getLsbD_eq
  intro j hj
  have hb : b.getLsbD (8 * (q + 1) + j) = false := BitVec.getLsbD_of_ge _ _ (by omega)
  have hbus : 8 * (q + 1) + j < 176 := by omega
  have hlow : ¬ 8 * (q + 1) + j < 8 := by omega
  have hlane : 8 * (q + 1) + j - 8 = 8 * q + j := by omega
  rw [getLsbD_chr, getLsbD_chr, packLanes_cons, BitVec.getLsbD_or, BitVec.getLsbD_shiftLeft, BitVec.getLsbD_setWidth, hb,
    hlane]
  simp [hbus, hlow]

/-- Lane q of a packed bus is the q-th byte, and 0 past the last one; bytes past lane 21 fall off the bus. -/
theorem chr_packLanes (bs : List Byte) {q : Nat} (hq : q < 22) : chr (packLanes bs) q = bs.getD q 0 := by
  induction bs generalizing q with
  | nil => exact BitVec.extractLsb'_zero
  | cons b bs ih =>
    cases q with
    | zero => exact chr_packLanes_cons_zero b bs
    | succ q => rw [chr_packLanes_cons_succ b bs hq, ih (by omega), List.getD_cons_succ]

theorem chr_packString (str : List Byte) {q : Nat} (hq : q < 22) : chr (packString str) q = str.getD q 0 := by
  rw [packString, chr_packLanes _ hq, List.getD_eq_getElem?_getD, List.getElem?_take_of_lt hq, List.getD_eq_getElem?_getD]

/-- A list of numbers below 256 packs without loss. -/
theorem toNat_chr_packLanes_ofNat {bs : List Nat} (hbs : ∀ b ∈ bs, b < 256) {i : Nat} (hi : i < 22) :
    (chr (packLanes (bs.map (BitVec.ofNat 8))) i).toNat = bs.getD i 0 := by
  have hlt : bs.getD i 0 < 256 := by
    rcases lt_or_ge i bs.length with hin | hout
    · rw [List.getD_eq_getElem _ _ hin]
      exact hbs _ (List.getElem_mem hin)
    · rw [List.getD_eq_default _ _ hout]
      decide
  have hmap : (bs.map (BitVec.ofNat 8)).getD i 0 = BitVec.ofNat 8 (bs.getD i 0) := List.getD_map ..
  rw [chr_packLanes _ hi, hmap, BitVec.toNat_ofNat, Nat.mod_eq_of_lt hlt]

end Sys2Proof.Machine
end

section
/-! PROOF. The statements about the encoding, each from the rules above. -/

namespace Sys2Proof.Machine

/-- Settles O28. -/
theorem decodeOfEncodedWord : Obligations.DecodeOfEncodedWord := fun i _ => decodeWord_encodeInstr i

/-- Settles O26. -/
theorem unusedPayloadIsIgnored : Obligations.UnusedPayloadIsIgnored := by
  refine fun p p' => ⟨fun hid => ?_, fun w hw hlen => ?_, fun w hw => ?_⟩
  · have hident : identOf p = identOf p' := hid
    rw [execute_encode_word, execute_encode_word, encodeResponse, encodeResponse, hident]
  · have hlength : argField w ≠ 22 := hlen
    rw [execute_of_decode_row hw, execute_of_decode_row hw, decodeResponse_of_wrong_length hlength,
      decodeResponse_of_wrong_length hlength]
  · rcases hw with halpha | hrlut
    · rw [execute_of_alphaRd_row halpha, execute_of_alphaRd_row halpha]
    · rw [execute_of_rlutRd_row hrlut, execute_of_rlutRd_row hrlut]

/-- Settles O27. -/
theorem unlistedDataBitsAreZero : Obligations.UnlistedDataBitsAreZero := by
  refine fun w p => ⟨fun hw => ?_, fun hw => ?_, fun hw => ?_⟩
  · rw [execute_of_decode_row hw]
    exact decodeResponse_data_lt ..
  · rw [execute_of_alphaRd_row hw]
    exact alphaRdResponse_data_lt ..
  · rw [execute_of_rlutRd_row hw]
    exact rlutRdResponse_data_lt _

/-- Settles O29. -/
theorem encodeOfDecodedWord : Obligations.EncodeOfDecodedWord := fun _ _ => encodeInstr_of_decodeWord

/-- Settles O30: whichever way the decoder goes, it says which rows select the word. -/
theorem atMostOneRowSelects : Obligations.AtMostOneRowSelects := by
  intro w
  refine ⟨?_, fun _ => filter_selects_of_decodeWord_ok, fun _ => filter_selects_of_decodeWord_error⟩
  cases h : decodeWord w with
  | ok i =>
    rw [filter_selects_of_decodeWord_ok h]
    exact Nat.le_refl 1
  | error e =>
    rw [filter_selects_of_decodeWord_error h]
    exact Nat.zero_le 1

/-- Settles O34. -/
theorem resultEdgeRespondsWithExecute : Obligations.ResultEdgeRespondsWithExecute := by
  intro s p ha hs hdef hrst hf hcnt
  have hstep : step s = .next (s.advance.present (execute s.cmdQ s.payQ)) :=
    calc step s = busyEdge s.advance := step_in_busy ha hs hdef hrst hf
      _ = resultEdge s.advance := busyEdge_of_zero hcnt
      _ = .next (s.advance.present (execute s.cmdQ s.payQ)) := resultEdge_eq s.advance
  exact ⟨_, hstep, onlyResponds_present _ _, State.response_present _ _⟩

/-- Settles O55. -/
theorem assemblerFollowsTheTable : Obligations.AssemblerFollowsTheTable := by
  refine ⟨fun id => assemble_eq_ite rfl, fun bs hlen hbs => ?_, fun strict len str c hc q hq => ?_,
    assemble_decode_word false, assemble_decode_word true, fun idx => ?_, fun code => ?_⟩
  · have hwf : (AsmLine.encodeBytes bs).wellFormed = true := by simpa [AsmLine.wellFormed, hlen] using hbs
    exact ⟨_, assemble_of_wellFormed hwf, rfl, fun i => toNat_chr_packLanes_ofNat hbs⟩
  · rw [eq_lineCommand_of_assemble hc]
    exact chr_packString str hq
  · rw [assemble_eq_ite (P := idx ≤ 255) rfl]
    split_ifs with hidx
    · rw [lineCommand, encodeInstr_alphaRd_ofNat hidx]
    · rfl
  · rw [assemble_eq_ite (P := code ≤ 255) rfl]
    split_ifs with hcode
    · rw [lineCommand, encodeInstr_rlutRd_ofNat hcode]
    · rfl

/-- Settles O32: the encoder gives each of the five legal words, and OP alone names the refusals. -/
theorem writtenOutWordsDecode : Obligations.WrittenOutWordsDecode :=
  ⟨decodeWord_encodeInstr .encode, decodeWord_encodeInstr (.decode false 22), decodeWord_encodeInstr (.decode true 22),
    decodeWord_encodeInstr (.alphaRd 35), decodeWord_encodeInstr (.rlutRd 0x5A), rfl, rfl⟩

end Sys2Proof.Machine
end

section
/-! PROOF. Base62 digits: the loop that gives them (40_encode.md R82), the number they weigh up to (R88) and the range of
the most significant one (R86). -/

namespace Sys2Proof.Machine

/-- Each turn of the loop gives the next digit of the value it began with (R82). -/
theorem digitsByDivision_eq_map_digit (n v : Nat) : digitsByDivision n v = (List.range n).map (digit v) := by
  induction n generalizing v with
  | zero => rfl
  | succ n ih =>
    have hshift : digit (v / 62) = digit v ∘ Nat.succ := funext fun k => (digit_succ v k).symm
    rw [digitsByDivision, ih, List.range_succ_eq_map, List.map_cons, List.map_map, digit_zero, hshift]

/-- Eleven digits are enough for a half (R82). -/
theorem lt_eleven_digits {v : Nat} (hv : v < 2 ^ 64) : v < 62 ^ 11 := hv.trans (by norm_num)

/-- The n low digits of a number, weighed, are the number modulo 62^n. -/
theorem sum_digit (v n : Nat) : ∑ k ∈ Finset.range n, digit v k * 62 ^ k = v % 62 ^ n := by
  induction n with
  | zero => rw [Finset.sum_range_zero, pow_zero, Nat.mod_one]
  | succ n ih => rw [Finset.sum_range_succ, ih, Nat.mod_pow_succ, digit, Nat.mul_comm (62 ^ n)]

/-- A half is recovered from its eleven digits (R88). -/
theorem weightedSum_digit {v : Nat} (hv : v < 2 ^ 64) : weightedSum (digit v) = v := by
  rw [weightedSum_eq_sum, sum_digit, Nat.mod_eq_of_lt (lt_eleven_digits hv)]

theorem half_eq_of_digits_eq {v w : Half} (h : ∀ k < 11, digit v.toNat k = digit w.toNat k) : v = w :=
  BitVec.eq_of_toNat_eq <|
    calc v.toNat = weightedSum (digit v.toNat) := (weightedSum_digit v.isLt).symm
      _ = weightedSum (digit w.toNat) := weightedSum_congr h
      _ = w.toNat := weightedSum_digit w.isLt

/-- Nothing stands above the most significant digit of a half, so there is no remainder to take (R86). -/
theorem digit_ten {v : Nat} (hv : v < 2 ^ 64) : digit v 10 = v / 62 ^ 10 :=
  Nat.mod_eq_of_lt (Nat.div_lt_of_lt_mul (lt_eleven_digits hv))

theorem digit_ten_le {v : Nat} (hv : v < 2 ^ 64) : digit v 10 ≤ 21 := by
  rw [digit_ten hv]
  omega

theorem digit_ten_eq_iff {v : Nat} (hv : v < 2 ^ 64) : digit v 10 = 21 ↔ 17625286683235144704 ≤ v := by
  rw [digit_ten hv]
  omega

end Sys2Proof.Machine
end

section
/-! PROOF. The characters of digits: every one is in the alphabet (20_memory.md R45), different digits have different ones,
and those of the digits up to 21 (40_encode.md R86). -/

namespace Sys2Proof.Machine

theorem rlutValid_of_entry {c : Byte} {n : Nat} (h : rlut c = rlutEntry n) : rlutValid c = true := by
  rw [rlutValid, h, rlutEntry, BitVec.getLsbD_append]
  rfl

theorem rlutValid_alpha {n : Nat} (h : n < 62) : rlutValid (alpha (BitVec.ofNat 6 n)) = true :=
  rlutValid_of_entry (rlut_alpha h)

/-- The reverse lookup gives the digit back, so its character determines it (R45). -/
theorem toNat_rlutDigit_alpha {n : Nat} (h : n < 62) : (rlutDigit (alpha (BitVec.ofNat 6 n))).toNat = n := by
  rw [rlutDigit_of_entry (rlut_alpha h), BitVec.toNat_ofNat, Nat.mod_eq_of_lt (by omega)]

theorem alpha_eq_alpha_iff {m n : Nat} (hm : m < 62) (hn : n < 62) :
    alpha (BitVec.ofNat 6 m) = alpha (BitVec.ofNat 6 n) ↔ m = n := by
  refine ⟨fun h => ?_, fun h => by rw [h]⟩
  rw [← toNat_rlutDigit_alpha hm, h, toNat_rlutDigit_alpha hn]

/-- The characters of the digits up to 21 are '0' to '9' and 'a' to 'l'. -/
theorem alpha_range_of_le {n : Nat} (h : n ≤ 21) :
    0x30 ≤ (alpha (BitVec.ofNat 6 n)).toNat ∧ (alpha (BitVec.ofNat 6 n)).toNat ≤ 0x39 ∨
      0x61 ≤ (alpha (BitVec.ofNat 6 n)).toNat ∧ (alpha (BitVec.ofNat 6 n)).toNat ≤ 0x6C := by
  rcases lt_or_ge n 10 with hnum | hge
  · rw [alpha_numeral hnum, BitVec.toNat_ofNat]
    omega
  · obtain ⟨m, rfl⟩ := Nat.exists_eq_add_of_le hge
    rw [alpha_lowercase (by omega), BitVec.toNat_ofNat]
    omega

/-- 'l' is the character of the digit 21. -/
theorem alpha_eq_l_iff {n : Nat} (h : n < 62) : alpha (BitVec.ofNat 6 n) = 0x6C ↔ n = 21 :=
  alpha_eq_alpha_iff h (by decide : 21 < 62)

end Sys2Proof.Machine
end

section
/-! PROOF. The characters of the encoder's output (40_encode.md R83, R84): low at the even positions, high at the odd ones. -/

namespace Sys2Proof.Machine

/-! ### The positions (R83) -/

theorem chr_encodeChars_even (rom : BitVec 6 → Byte) (id : Ident) {k : Nat} (hk : k ≤ 10) :
    chr (encodeChars rom id) (2 * k) = rom (BitVec.ofNat 6 (digit (lowHalf id).toNat k)) := by
  have heven : 2 * k % 2 = 0 ∧ 2 * k / 2 < 11 := by omega
  have hdigit : 2 * k / 2 = k := by omega
  rw [encodeChars, chr_foldl_encodeDigit rom _ _ 11 _ le_rfl (by omega), if_pos heven, hdigit]

theorem chr_encodeChars_odd (rom : BitVec 6 → Byte) (id : Ident) {k : Nat} (hk : k ≤ 10) :
    chr (encodeChars rom id) (21 - 2 * k) = rom (BitVec.ofNat 6 (digit (highHalf id).toNat k)) := by
  have hodd : (21 - 2 * k) % 2 = 1 ∧ (21 - (21 - 2 * k)) / 2 < 11 := by omega
  have hnot : ¬ ((21 - 2 * k) % 2 = 0 ∧ (21 - 2 * k) / 2 < 11) := by omega
  have hdigit : (21 - (21 - 2 * k)) / 2 = k := by omega
  rw [encodeChars, chr_foldl_encodeDigit rom _ _ 11 _ le_rfl (by omega), if_neg hnot, if_pos hodd, hdigit]

/-- Every position receives a digit of one of the halves (R83). -/
theorem position_cases {q : Nat} (hq : q < 22) : (∃ k ≤ 10, q = 2 * k) ∨ ∃ k ≤ 10, q = 21 - 2 * k := by
  rcases Nat.mod_two_eq_zero_or_one q with heven | hodd
  · exact .inl ⟨q / 2, by omega, by omega⟩
  · exact .inr ⟨(21 - q) / 2, by omega, by omega⟩

/-! ### What the characters say about the identifier (R87, R88) -/

theorem rlutValid_chr_encodeChars (id : Ident) {q : Nat} (hq : q < 22) :
    rlutValid (chr (encodeChars alpha id) q) = true := by
  rcases position_cases hq with ⟨k, hk, rfl⟩ | ⟨k, hk, rfl⟩
  · rw [chr_encodeChars_even alpha id hk]
    exact rlutValid_alpha (digit_lt _ _)
  · rw [chr_encodeChars_odd alpha id hk]
    exact rlutValid_alpha (digit_lt _ _)

/-- Equal outputs have equal digits at every position, and the digits determine the halves (R88). -/
theorem encodeChars_injective : Function.Injective (encodeChars alpha) := by
  intro id id' h
  have hlow : lowHalf id = lowHalf id' := half_eq_of_digits_eq fun k hk => by
    rw [← alpha_eq_alpha_iff (digit_lt _ _) (digit_lt _ _), ← chr_encodeChars_even alpha id (by omega),
      ← chr_encodeChars_even alpha id' (by omega), h]
  have hhigh : highHalf id = highHalf id' := half_eq_of_digits_eq fun k hk => by
    rw [← alpha_eq_alpha_iff (digit_lt _ _) (digit_lt _ _), ← chr_encodeChars_odd alpha id (by omega),
      ← chr_encodeChars_odd alpha id' (by omega), h]
  rw [← joinHalves_halves id, hlow, hhigh, joinHalves_halves]

/-! ### The response to a payload -/

@[simp] theorem encodeResponse_data (p : Bus) : (encodeResponse p).data = encodeChars alpha (identOf p) := rfl

@[simp] theorem lowHalf_identOf (p : Bus) : lowHalf (identOf p) = p.extractLsb' 0 64 :=
  BitVec.extractLsb'_extractLsb'_of_le (by decide)

@[simp] theorem highHalf_identOf (p : Bus) : highHalf (identOf p) = p.extractLsb' 64 64 :=
  BitVec.extractLsb'_extractLsb'_of_le (by decide)

theorem chr_encodeResponse_even (p : Bus) {k : Nat} (hk : k ≤ 10) :
    chr (encodeResponse p).data (2 * k) = alpha (BitVec.ofNat 6 (digit (p.extractLsb' 0 64).toNat k)) := by
  rw [encodeResponse_data, chr_encodeChars_even alpha _ hk, lowHalf_identOf]

theorem chr_encodeResponse_odd (p : Bus) {k : Nat} (hk : k ≤ 10) :
    chr (encodeResponse p).data (21 - 2 * k) = alpha (BitVec.ofNat 6 (digit (p.extractLsb' 64 64).toNat k)) := by
  rw [encodeResponse_data, chr_encodeChars_odd alpha _ hk, highHalf_identOf]

end Sys2Proof.Machine
end

section
/-! PROOF. The statements about the encoder, each from the rules above. -/

namespace Sys2Proof.Machine

/-- Settles O1. -/
theorem encodeInterleavesDigits : Obligations.EncodeInterleavesDigits := fun s =>
  ⟨_, exec_encode s, onlyResponds_present s _, rfl, rfl, fun _ hk =>
    ⟨chr_encodeResponse_even s.payQ hk, chr_encodeResponse_odd s.payQ hk⟩⟩

/-- Settles O11. -/
theorem encodeStaysInAlphabet : Obligations.EncodeStaysInAlphabet := fun s =>
  ⟨_, exec_encode s, fun _ => rlutValid_chr_encodeChars (identOf s.payQ)⟩

/-- Settles O12. -/
theorem encodeIsInjective : Obligations.EncodeIsInjective := by
  intro s s' t t' ht ht' hid hdata
  obtain rfl : s.present (encodeResponse s.payQ) = t := Host.Outcome.next.inj ((exec_encode s).symm.trans ht)
  obtain rfl : s'.present (encodeResponse s'.payQ) = t' := Host.Outcome.next.inj ((exec_encode s').symm.trans ht')
  exact hid (encodeChars_injective hdata)

/-- Settles O13: positions 1 and 20 hold digit 10 of high and of low. -/
theorem topCharacterIsAtMostL : Obligations.TopCharacterIsAtMostL := by
  intro s
  have hhigh := chr_encodeResponse_odd s.payQ (le_refl 10)
  have hlow := chr_encodeResponse_even s.payQ (le_refl 10)
  refine ⟨_, exec_encode s, fun q hq => ?_, ?_, ?_⟩
  · rcases hq with rfl | rfl
    · rw [State.present_rspDataQ, hhigh]
      exact alpha_range_of_le (digit_ten_le (BitVec.isLt _))
    · rw [State.present_rspDataQ, hlow]
      exact alpha_range_of_le (digit_ten_le (BitVec.isLt _))
  · rw [State.present_rspDataQ, hhigh, alpha_eq_l_iff (digit_lt _ _), digit_ten_eq_iff (BitVec.isLt _)]
  · rw [State.present_rspDataQ, hlow, alpha_eq_l_iff (digit_lt _ _), digit_ten_eq_iff (BitVec.isLt _)]

/-- Settles O14. -/
theorem halvesAreEncodedIndependently : Obligations.HalvesAreEncodedIndependently := by
  refine fun id id' => ⟨fun h k hk => ?_, fun h k hk => ?_⟩
  · have hlow : lowHalf id = lowHalf id' := h
    rw [chr_encodeChars_even alpha id hk, chr_encodeChars_even alpha id' hk, hlow]
  · have hhigh : highHalf id = highHalf id' := h
    rw [chr_encodeChars_odd alpha id hk, chr_encodeChars_odd alpha id' hk, hhigh]

/-- Settles O15. -/
theorem repeatedDivisionGivesTheDigits : Obligations.RepeatedDivisionGivesTheDigits := by
  intro v hv
  refine ⟨digitsByDivision_eq_map_digit 11 v, fun d hd => ?_, Nat.div_eq_of_lt (lt_eleven_digits hv)⟩
  rw [digitsByDivision_eq_map_digit] at hd
  obtain ⟨k, -, rfl⟩ := List.mem_map.mp hd
  exact digit_lt v k

end Sys2Proof.Machine
end

section
/-! PROOF. Weighted sums: their bound, the digits of one (41_decode.md R112), the Horner form over a register (R109) and
which of them fit in 64 bits (R113). -/

namespace Sys2Proof.Machine

/-- The weighted sum with its least significant digit split off. -/
theorem sum_succ_digits (g : Nat → Nat) (n : Nat) :
    ∑ k ∈ Finset.range (n + 1), g k * 62 ^ k = (∑ k ∈ Finset.range n, g (k + 1) * 62 ^ k) * 62 + g 0 := by
  rw [Finset.sum_range_succ', Finset.sum_mul, pow_zero, Nat.mul_one]
  simp only [pow_succ, Nat.mul_assoc]

/-- n digits weigh less than 62^n. -/
theorem sum_digits_lt {g : Nat → Nat} {n : Nat} (hg : ∀ k < n, g k < 62) :
    ∑ k ∈ Finset.range n, g k * 62 ^ k < 62 ^ n := by
  induction n generalizing g with
  | zero => exact Nat.one_pos
  | succ n ih =>
    have htail := ih (g := fun k => g (k + 1)) fun k hk => hg (k + 1) (by omega)
    have hhead := hg 0 (by omega)
    rw [sum_succ_digits, pow_succ]
    omega

/-- A base62 form is unique: the digits of a weighted sum are the digits it was made of. -/
theorem digit_sum_digits {g : Nat → Nat} {n k : Nat} (hg : ∀ j < n, g j < 62) (hk : k < n) :
    digit (∑ j ∈ Finset.range n, g j * 62 ^ j) k = g k := by
  induction n generalizing g k with
  | zero => omega
  | succ n ih =>
    have hhead := hg 0 (by omega)
    rw [sum_succ_digits]
    cases k with
    | zero =>
      rw [digit_zero]
      omega
    | succ k =>
      have hshift : ((∑ j ∈ Finset.range n, g (j + 1) * 62 ^ j) * 62 + g 0) / 62 =
          ∑ j ∈ Finset.range n, g (j + 1) * 62 ^ j := by omega
      rw [digit_succ, hshift]
      exact ih (fun j hj => hg (j + 1) (by omega)) (by omega)

/-- Reduction mod 2^64 commutes with each turn of the Horner loop (R109). -/
theorem foldr_horner_eq_ofNat_sum (g : Nat → Nat) (n : Nat) :
    (List.range n).foldr (fun k acc => acc * 62 + BitVec.ofNat 64 (g k)) 0 =
      BitVec.ofNat 64 (∑ k ∈ Finset.range n, g k * 62 ^ k) := by
  induction n generalizing g with
  | zero => rfl
  | succ n ih =>
    rw [List.range_succ_eq_map, List.foldr_cons, List.foldr_map, ih fun k => g (k + 1), sum_succ_digits, BitVec.ofNat_add,
      BitVec.ofNat_mul]
    rfl

theorem horner64_eq_ofNat (g : Nat → Nat) : horner64 g = BitVec.ofNat 64 (weightedSum g) := by
  rw [horner64, foldr_horner_eq_ofNat_sum, weightedSum_eq_sum]

section Digits

variable {g : Nat → Nat} (hg : ∀ k < 11, g k < 62)
include hg

theorem weightedSum_lt : weightedSum g < 62 ^ 11 := by
  rw [weightedSum_eq_sum]
  exact sum_digits_lt hg

theorem digit_weightedSum {k : Nat} (hk : k < 11) : digit (weightedSum g) k = g k := by
  rw [weightedSum_eq_sum]
  exact digit_sum_digits hg hk

/-- The ten digits below the most significant one weigh less than one unit of it (R113). -/
theorem sum_ten_digits_le : ∑ k ∈ Finset.range 10, g k * 62 ^ k ≤ 839299365868340223 := by
  have hlt : ∑ k ∈ Finset.range 10, g k * 62 ^ k < 62 ^ 10 := sum_digits_lt fun k hk => hg k (by omega)
  omega

/-- The most significant digit decides whether the sum fits, and where it is 21 the rest does (R113). -/
theorem weightedSum_fits_iff :
    weightedSum g < 2 ^ 64 ↔
      g 10 ≤ 20 ∨ g 10 = 21 ∧ ∑ k ∈ Finset.range 10, g k * 62 ^ k ≤ 821457390474406911 := by
  have hrest := sum_ten_digits_le hg
  rw [weightedSum_eq_sum, Finset.sum_range_succ]
  omega

end Digits

end Sys2Proof.Machine
end

section
/-! PROOF. The two sums and the identifier that the decoder makes of a string (41_decode.md R104 to R108), and what they
are for a string that the encoder gave (R111). -/

namespace Sys2Proof.Machine

/-! ### The sums as functions of the looked-up digits (R104, R105) -/

section Digits

variable {p p' : Bus} (h : ∀ q < 22, rlutDigit (chr p q) = rlutDigit (chr p' q))
include h

theorem lowSum_congr : lowSum p = lowSum p' := weightedSum_congr fun k _ => by rw [h (2 * k) (by omega)]

theorem highSum_congr : highSum p = highSum p' := weightedSum_congr fun k _ => by rw [h (21 - 2 * k) (by omega)]

theorem decodeIdent_congr : decodeIdent p = decodeIdent p' := by
  rw [decodeIdent, decodeIdent, lowSum_congr h, highSum_congr h]

end Digits

theorem digit_lowSum (p : Bus) {k : Nat} (hk : k ≤ 10) : digit (lowSum p) k = (rlutDigit (chr p (2 * k))).toNat :=
  digit_weightedSum (fun _ _ => rlutDigit_lt _) (by omega)

theorem digit_highSum (p : Bus) {k : Nat} (hk : k ≤ 10) :
    digit (highSum p) k = (rlutDigit (chr p (21 - 2 * k))).toNat :=
  digit_weightedSum (fun _ _ => rlutDigit_lt _) (by omega)

/-! ### The identifier (R106, R108) -/

theorem toNat_joinHalves (high low : Half) : (joinHalves high low).toNat = high.toNat * 2 ^ 64 + low.toNat := by
  obtain ⟨-, -, hid⟩ := halvesAreLittleEndian (joinHalves high low)
  rwa [highHalf_joinHalves, lowHalf_joinHalves] at hid

theorem toNat_setWidth_decodeIdent (p : Bus) :
    ((decodeIdent p).setWidth 176).toNat = highSum p % 2 ^ 64 * 2 ^ 64 + lowSum p % 2 ^ 64 := by
  rw [BitVec.toNat_setWidth_of_le (by decide), decodeIdent, toNat_joinHalves, BitVec.toNat_ofNat, BitVec.toNat_ofNat]

theorem toNat_lowHalf_decodeIdent {p : Bus} (h : lowSum p < 2 ^ 64) : (lowHalf (decodeIdent p)).toNat = lowSum p := by
  rw [decodeIdent, lowHalf_joinHalves, BitVec.toNat_ofNat, Nat.mod_eq_of_lt h]

theorem toNat_highHalf_decodeIdent {p : Bus} (h : highSum p < 2 ^ 64) :
    (highHalf (decodeIdent p)).toNat = highSum p := by
  rw [decodeIdent, highHalf_joinHalves, BitVec.toNat_ofNat, Nat.mod_eq_of_lt h]

/-! ### A string of the encoder (R111) -/

theorem rspDataQ_of_exec_encode {s t : State} (h : exec .encode s = .next t) :
    t.rspDataQ = encodeChars alpha (identOf s.payQ) := by
  obtain rfl : s.present (encodeResponse s.payQ) = t := Host.Outcome.next.inj ((exec_encode s).symm.trans h)
  rfl

theorem lowSum_encodeChars (id : Ident) : lowSum (encodeChars alpha id) = (lowHalf id).toNat :=
  calc lowSum (encodeChars alpha id) = weightedSum (digit (lowHalf id).toNat) :=
        weightedSum_congr fun k hk => by
          rw [chr_encodeChars_even alpha id (by omega), toNat_rlutDigit_alpha (digit_lt _ _)]
    _ = (lowHalf id).toNat := weightedSum_digit (lowHalf id).isLt

theorem highSum_encodeChars (id : Ident) : highSum (encodeChars alpha id) = (highHalf id).toNat :=
  calc highSum (encodeChars alpha id) = weightedSum (digit (highHalf id).toNat) :=
        weightedSum_congr fun k hk => by
          rw [chr_encodeChars_odd alpha id (by omega), toNat_rlutDigit_alpha (digit_lt _ _)]
    _ = (highHalf id).toNat := weightedSum_digit (highHalf id).isLt

theorem decodeIdent_encodeChars (id : Ident) : decodeIdent (encodeChars alpha id) = id := by
  rw [decodeIdent, lowSum_encodeChars, highSum_encodeChars, BitVec.ofNat_toNat, BitVec.ofNat_toNat, BitVec.setWidth_eq,
    BitVec.setWidth_eq, joinHalves_halves]

end Sys2Proof.Machine
end

section
/-! PROOF. The flags of a decode (41_decode.md R106, R107), each of its three responses (R101, R103, R108), and that flags
0 are the strings of the encoder (R112). -/

namespace Sys2Proof.Machine

/-! ### The flags -/

/-- The flags of an OK decode (R106, R107). -/
def decodeFlags (p : Bus) : Flags := packFlags (hasNonAlpha p) (overflows (highSum p)) (overflows (lowSum p))

@[simp] theorem nonAlpha_decodeFlags (p : Bus) : nonAlpha (decodeFlags p) = hasNonAlpha p := nonAlpha_packFlags ..
@[simp] theorem ovfHi_decodeFlags (p : Bus) : ovfHi (decodeFlags p) = overflows (highSum p) := ovfHi_packFlags ..
@[simp] theorem ovfLo_decodeFlags (p : Bus) : ovfLo (decodeFlags p) = overflows (lowSum p) := ovfLo_packFlags ..

theorem overflows_iff (n : Nat) : overflows n = true ↔ 2 ^ 64 ≤ n := decide_eq_true_iff

theorem overflows_eq_false_iff (n : Nat) : overflows n = false ↔ n < 2 ^ 64 := by
  rw [overflows, decide_eq_false_iff_not, Nat.not_le]

theorem hasNonAlpha_eq_false_iff (p : Bus) : hasNonAlpha p = false ↔ ∀ q < 22, rlutValid (chr p q) = true := by
  simp [hasNonAlpha]

theorem packFlags_eq_zero_iff (n h l : Bool) : packFlags n h l = 0 ↔ n = false ∧ h = false ∧ l = false := by
  revert n h l
  decide

theorem decodeFlags_eq_zero_iff (p : Bus) :
    decodeFlags p = 0 ↔
      (∀ q < 22, rlutValid (chr p q) = true) ∧ highSum p < 2 ^ 64 ∧ lowSum p < 2 ^ 64 := by
  rw [decodeFlags, packFlags_eq_zero_iff, hasNonAlpha_eq_false_iff, overflows_eq_false_iff, overflows_eq_false_iff]

/-! ### The responses with LEN = 22 -/

/-- A decode that is not refused: S = 0, or no foreign character (R106 to R108). -/
theorem decodeResponse_of_accepted {strict : Bool} {p : Bus} (h : strict = false ∨ hasNonAlpha p = false) :
    decodeResponse strict 22 p = okResponse (decodeFlags p) ((decodeIdent p).setWidth 176) := by
  have hpass : ¬ (strict && hasNonAlpha p) = true := by
    rcases h with hs | hp
    · simp [hs]
    · simp [hp]
  exact (if_neg (not_not_intro rfl)).trans (if_neg hpass)

theorem decodeResponse_permissive (p : Bus) :
    decodeResponse false 22 p = okResponse (decodeFlags p) ((decodeIdent p).setWidth 176) :=
  decodeResponse_of_accepted (.inl rfl)

theorem decodeResponse_strict_of_foreign {p : Bus} (h : hasNonAlpha p = true) :
    decodeResponse true 22 p = errorResponse .invalidChar := (if_neg (not_not_intro rfl)).trans (if_pos h)

/-- Status OK says that the decode was not refused. -/
theorem decodeResponse_of_status_ok {strict : Bool} {p : Bus} (h : (decodeResponse strict 22 p).status = 0) :
    decodeResponse strict 22 p = okResponse (decodeFlags p) ((decodeIdent p).setWidth 176) := by
  cases strict with
  | false => exact decodeResponse_permissive p
  | true =>
    cases hp : hasNonAlpha p with
    | false => exact decodeResponse_of_accepted (.inr hp)
    | true =>
      rw [decodeResponse_strict_of_foreign hp] at h
      exact absurd h (by decide)

theorem decodeResponse_permissive_status_ne (len : Byte) (p : Bus) :
    (decodeResponse false len p).status ≠ Status.invalidChar.code := by
  by_cases hlen : len = 22
  · rw [hlen, decodeResponse_permissive, okResponse_status]
    decide
  · rw [decodeResponse_of_wrong_length hlen, errorResponse_status]
    decide

/-! ### Strings of the encoder (R111, R112) -/

theorem decodeFlags_encodeChars (id : Ident) : decodeFlags (encodeChars alpha id) = 0 := by
  rw [decodeFlags_eq_zero_iff, highSum_encodeChars, lowSum_encodeChars]
  exact ⟨fun _ => rlutValid_chr_encodeChars id, (highHalf id).isLt, (lowHalf id).isLt⟩

/-- Every character of the encoder is in the alphabet, so the strict bit has no effect. -/
theorem decodeResponse_encodeChars (strict : Bool) (id : Ident) :
    decodeResponse strict 22 (encodeChars alpha id) = okResponse 0 (id.setWidth 176) := by
  have hp : hasNonAlpha (encodeChars alpha id) = false :=
    (hasNonAlpha_eq_false_iff _).mpr fun _ => rlutValid_chr_encodeChars id
  rw [decodeResponse_of_accepted (.inr hp), decodeFlags_encodeChars, decodeIdent_encodeChars]

/-- In a string with flags 0 each half equals its sum, whose digits are those of the string's characters. -/
theorem encodeChars_decodeIdent {p : Bus} (h : decodeFlags p = 0) : encodeChars alpha (decodeIdent p) = p := by
  obtain ⟨hvalid, hhigh, hlow⟩ := (decodeFlags_eq_zero_iff p).mp h
  refine bus_ext fun q hq => ?_
  rcases position_cases hq with ⟨k, hk, rfl⟩ | ⟨k, hk, rfl⟩
  · rw [chr_encodeChars_even alpha _ hk, toNat_lowHalf_decodeIdent hlow, digit_lowSum p hk, BitVec.ofNat_toNat,
      BitVec.setWidth_eq, alpha_rlutDigit (hvalid _ hq)]
  · rw [chr_encodeChars_odd alpha _ hk, toNat_highHalf_decodeIdent hhigh, digit_highSum p hk, BitVec.ofNat_toNat,
      BitVec.setWidth_eq, alpha_rlutDigit (hvalid _ hq)]

theorem encodeChars_decodeIdent_eq_iff (p : Bus) : encodeChars alpha (decodeIdent p) = p ↔ decodeFlags p = 0 :=
  ⟨fun h => h ▸ decodeFlags_encodeChars (decodeIdent p), encodeChars_decodeIdent⟩

/-! ### A foreign character read as '0' (R115) -/

theorem rlutValid_zero_for_foreign (c : Byte) : rlutValid (if rlutValid c then c else 0x30) = true := by
  split_ifs with hc
  · exact hc
  · decide

theorem rlutDigit_zero_for_foreign (c : Byte) : rlutDigit (if rlutValid c then c else 0x30) = rlutDigit c := by
  split_ifs with hc
  · rfl
  · rw [rlutDigit_of_invalid c (Bool.eq_false_of_not_eq_true hc)]
    decide

/-! ### Zero digits below an overflowing one (R113) -/

/-- The string "0Z000000000000000000Z0": '0' at every position but the most significant one of each half. -/
def onlyTopDigits : Bus := 0x305A3030303030303030303030303030303030305A30

theorem rlutDigit_onlyTopDigits {q : Nat} (hq : q < 22) (h1 : q ≠ 1) (h20 : q ≠ 20) :
    rlutDigit (chr onlyTopDigits q) = 0 := by
  revert q
  decide

end Sys2Proof.Machine
end

section
/-! PROOF. The statements about the decoder, each from the rules above. -/

namespace Sys2Proof.Machine

/-- Settles O2. -/
theorem decodeGivesTruncatedSums : Obligations.DecodeGivesTruncatedSums := by
  intro s strict h
  have hresp := decodeResponse_of_accepted (h.imp_right (hasNonAlpha_eq_false_iff s.payQ).mpr)
  have hlow := weightedSum_eq_sum fun k => (rlutDigit (chr s.payQ (2 * k))).toNat
  have hhigh := weightedSum_eq_sum fun k => (rlutDigit (chr s.payQ (21 - 2 * k))).toNat
  refine ⟨_, exec_decode strict 22 s, onlyResponds_present s _, ?_⟩
  rw [hresp, ← hlow, ← hhigh, State.present_rspStatusQ, State.present_rspDataQ, State.present_rspFlagsQ,
    okResponse_flags, ovfLo_decodeFlags, ovfHi_decodeFlags, nonAlpha_decodeFlags]
  exact ⟨rfl, toNat_setWidth_decodeIdent _, overflows_iff _, overflows_iff _, hasNonAlpha_iff _,
    getLsbD_three_packFlags _ _ _⟩

/-- Settles O4. -/
theorem decodeStrictRefusesCharacters : Obligations.DecodeStrictRefusesCharacters := by
  refine ⟨fun s h => ⟨_, exec_decode true 22 s, onlyResponds_present s _, ?_⟩, fun s len =>
    ⟨_, exec_decode false len s, decodeResponse_permissive_status_ne len s.payQ⟩⟩
  rw [State.response_present, decodeResponse_strict_of_foreign ((hasNonAlpha_iff _).mpr h)]
  rfl

/-- Settles O17. -/
theorem hornerGivesTheTruncatedSum : Obligations.HornerGivesTheTruncatedSum := by
  refine fun g => ⟨?_, fun hg => ?_⟩
  · rw [horner64_eq_ofNat, BitVec.toNat_ofNat]
  · exact (weightedSum_lt fun k hk => hg k (by omega)).trans (by norm_num)

/-- Settles O18. -/
theorem decodeUndoesEncode : Obligations.DecodeUndoesEncode := by
  intro s t u strict ht hpay
  refine ⟨_, exec_decode strict 22 u, ?_⟩
  rw [State.response_present, hpay, rspDataQ_of_exec_encode ht, decodeResponse_encodeChars]
  rfl

/-- Settles O19. -/
theorem encodeUndoesDecodeIffFlagsZero : Obligations.EncodeUndoesDecodeIffFlagsZero := by
  intro s t u strict ht hok hpay
  obtain rfl : s.present (decodeResponse strict 22 s.payQ) = t :=
    Host.Outcome.next.inj ((exec_decode strict 22 s).symm.trans ht)
  rw [State.present_rspDataQ, decodeResponse_of_status_ok hok, okResponse_data] at hpay
  refine ⟨_, exec_encode u, ?_⟩
  rw [State.present_rspDataQ, encodeResponse_data, hpay, identOf_setWidth, State.present_rspFlagsQ,
    decodeResponse_of_status_ok hok, okResponse_flags, encodeChars_decodeIdent_eq_iff]

/-- Settles O20: a string with nothing but the most significant digits shows that no other position counts. -/
theorem sumFitsByTopDigit : Obligations.SumFitsByTopDigit := by
  have hlow (p : Bus) : ∀ k < 11, (rlutDigit (chr p (2 * k))).toNat < 62 := fun _ _ => rlutDigit_lt _
  have hhigh (p : Bus) : ∀ k < 11, (rlutDigit (chr p (21 - 2 * k))).toNat < 62 := fun _ _ => rlutDigit_lt _
  refine ⟨fun p => ⟨weightedSum_fits_iff (hlow p), weightedSum_fits_iff (hhigh p), sum_ten_digits_le (hlow p),
    sum_ten_digits_le (hhigh p)⟩, fun k hk => ⟨⟨onlyTopDigits, ?_, ?_⟩, onlyTopDigits, ?_, ?_⟩⟩
  · exact rlutDigit_onlyTopDigits (by omega) (by omega) (by omega)
  · decide
  · exact rlutDigit_onlyTopDigits (by omega) (by omega) (by omega)
  · decide

/-- Settles O21. -/
theorem strictAgreesOnEncoded : Obligations.StrictAgreesOnEncoded := by
  refine ⟨fun s t u ht hpay => ?_, fun u h => ⟨⟨_, exec_decode false 22 u, ?_⟩, _, exec_decode true 22 u, ?_⟩⟩
  · rw [exec_decode, exec_decode, hpay, rspDataQ_of_exec_encode ht, decodeResponse_encodeChars,
      decodeResponse_encodeChars]
  · rw [decodeResponse_permissive, State.present_rspFlagsQ, okResponse_flags, nonAlpha_decodeFlags]
    exact ⟨rfl, (hasNonAlpha_iff _).mpr h⟩
  · rw [decodeResponse_strict_of_foreign ((hasNonAlpha_iff _).mpr h)]
    rfl

/-- Settles O22: the lookup gives the same digits, and every character of the second string is in the alphabet. -/
theorem foreignCharactersReadAsZero : Obligations.ForeignCharactersReadAsZero := by
  intro s s' hforeign hreplaced
  have hdigits : ∀ q < 22, rlutDigit (chr s.payQ q) = rlutDigit (chr s'.payQ q) := fun q hq => by
    rw [hreplaced q hq, rlutDigit_zero_for_foreign]
  have hvalid : ∀ q < 22, rlutValid (chr s'.payQ q) = true := fun q hq => by
    rw [hreplaced q hq, rlutValid_zero_for_foreign]
  refine ⟨_, _, exec_decode false 22 s, exec_decode false 22 s', ?_⟩
  simp only [decodeResponse_permissive, State.present_rspStatusQ, State.present_rspDataQ, State.present_rspFlagsQ,
    okResponse_status, okResponse_data, okResponse_flags, ovfLo_decodeFlags, ovfHi_decodeFlags, nonAlpha_decodeFlags,
    decodeIdent_congr hdigits, lowSum_congr hdigits, highSum_congr hdigits, true_and]
  exact ⟨(hasNonAlpha_iff _).mpr hforeign, (hasNonAlpha_eq_false_iff _).mpr hvalid⟩

/-- Settles O3. -/
theorem decodeWrongLength : Obligations.DecodeWrongLength := by
  refine fun s strict len hlen => ⟨_, exec_decode strict len s, onlyResponds_present s _, ?_⟩
  rw [State.response_present, decodeResponse_of_wrong_length hlen]
  rfl

end Sys2Proof.Machine
end

section
/-! PROOF. The ROM reads (42_rom_read.md): the character that ALPHA_RD gives (R130), the digit that RLUT_RD gives (R131),
and the alphabet's codes counted through its digits (R132). -/

namespace Sys2Proof.Machine

/-! ### The character of an index (R130, R41) -/

theorem toNat_alpha_numeral {n : Nat} (h : n < 10) : (alpha (BitVec.ofNat 6 n)).toNat = 0x30 + n := by
  rw [alpha_numeral h, BitVec.toNat_ofNat]
  omega

theorem toNat_alpha_lowercase {n : Nat} (h : 10 ≤ n ∧ n < 36) : (alpha (BitVec.ofNat 6 n)).toNat = 0x61 + (n - 10) := by
  obtain ⟨hge, hlt⟩ := h
  obtain ⟨m, rfl⟩ := Nat.exists_eq_add_of_le hge
  rw [alpha_lowercase (by omega), BitVec.toNat_ofNat]
  omega

theorem toNat_alpha_uppercase {n : Nat} (h : 36 ≤ n ∧ n < 62) : (alpha (BitVec.ofNat 6 n)).toNat = 0x41 + (n - 36) := by
  obtain ⟨hge, hlt⟩ := h
  obtain ⟨m, rfl⟩ := Nat.exists_eq_add_of_le hge
  rw [alpha_uppercase (by omega), BitVec.toNat_ofNat]
  omega

theorem alphaRdResponse_of_bad {idx : Byte} (h : 62 ≤ idx.toNat) : alphaRdResponse alpha idx = errorResponse .badIndex :=
  if_pos h

theorem alphaRdResponse_of_lt {idx : Byte} (h : idx.toNat < 62) :
    alphaRdResponse alpha idx = okResponse 0 ((alpha (BitVec.ofNat 6 idx.toNat)).setWidth 176) := by
  rw [alphaRdResponse, if_neg (Nat.not_le_of_lt h), BitVec.ofNat_toNat]

theorem toNat_alphaRdResponse_data {idx : Byte} (h : idx.toNat < 62) :
    (alphaRdResponse alpha idx).data.toNat = (alpha (BitVec.ofNat 6 idx.toNat)).toNat := by
  rw [alphaRdResponse_of_lt h, okResponse_data, BitVec.toNat_setWidth_of_le (by decide)]

/-- The host takes the character from the low byte of the data. -/
theorem alphaRdResponse_data_code {idx : Byte} (h : idx.toNat < 62) :
    (alphaRdResponse alpha idx).data.extractLsb' 0 8 = alpha (BitVec.ofNat 6 idx.toNat) := by
  rw [alphaRdResponse_of_lt h, okResponse_data, BitVec.extractLsb'_setWidth_of_le (by decide), BitVec.extractLsb'_eq_self]

/-! ### The digit of a code (R131, R43) -/

/-- A code of the alphabet is answered with its digit and no flag. -/
theorem rlutRdResponse_of_entry {c : Byte} {n : Nat} (hn : n < 62) (h : rlut c = rlutEntry n) :
    rlutRdResponse c = okResponse 0 (BitVec.ofNat 176 n) := by
  have hdigit : (BitVec.ofNat 6 n).setWidth 176 = BitVec.ofNat 176 n :=
    BitVec.setWidth_ofNat_of_le_of_lt (by decide) (by omega)
  rw [rlutRdResponse, rlutValid_of_entry h, rlutDigit_of_entry h, hdigit]
  rfl

theorem rlutRdResponse_entry_fields {c : Byte} {n : Nat} (hn : n < 62) (h : rlut c = rlutEntry n) :
    (rlutRdResponse c).flags = 0 ∧ (rlutRdResponse c).data.toNat = n := by
  rw [rlutRdResponse_of_entry hn h]
  exact ⟨rfl, Nat.mod_eq_of_lt (by omega)⟩

/-- A code outside the alphabet is answered with digit 0 and NONALPHA. -/
theorem rlutRdResponse_of_foreign {c : Byte} (h : rlut c = 0) : rlutRdResponse c = okResponse 4 0 := by
  rw [rlutRdResponse, rlutValid, rlutDigit, h]
  rfl

theorem nonAlpha_rlutRdResponse (c : Byte) : nonAlpha (rlutRdResponse c).flags = !rlutValid c := by
  rw [rlutRdResponse_flags, nonAlpha_packFlags]

/-! ### The codes of the alphabet and its digits correspond (R45) -/

theorem alpha_toNat_rlutDigit {c : Byte} (h : rlutValid c = true) : alpha (BitVec.ofNat 6 (rlutDigit c).toNat) = c := by
  rw [BitVec.ofNat_toNat, BitVec.setWidth_eq, alpha_rlutDigit h]

/-- Each ROM undoes the other, so there are as many codes in the alphabet as digits below 62. -/
theorem card_filter_rlutValid : ((Finset.range 256).filter fun c => rlutValid (BitVec.ofNat 8 c) = true).card = 62 := by
  rw [← Finset.card_range 62]
  refine Finset.card_nbij' (fun c => (rlutDigit (BitVec.ofNat 8 c)).toNat) (fun n => (alpha (BitVec.ofNat 6 n)).toNat)
    (fun c _ => ?_) (fun n hn => ?_) (fun c hc => ?_) (fun n hn => ?_)
  · exact Finset.mem_coe.mpr (Finset.mem_range.mpr (rlutDigit_lt _))
  · refine Finset.mem_coe.mpr (Finset.mem_filter.mpr ⟨Finset.mem_range.mpr (alpha _).isLt, ?_⟩)
    rw [BitVec.ofNat_toNat, BitVec.setWidth_eq, rlutValid_alpha (Finset.mem_range.mp hn)]
  · obtain ⟨hrange, hvalid⟩ := Finset.mem_filter.mp hc
    beta_reduce
    rw [alpha_toNat_rlutDigit hvalid, BitVec.toNat_ofNat, Nat.mod_eq_of_lt (Finset.mem_range.mp hrange)]
  · beta_reduce
    rw [BitVec.ofNat_toNat, BitVec.setWidth_eq, toNat_rlutDigit_alpha (Finset.mem_range.mp hn)]

/-! ### The statements -/

/-- Settles O5. -/
theorem alphaRdReadsTheAlphabet : Obligations.AlphaRdReadsTheAlphabet := by
  refine ⟨fun _ => decodeWord_of_alphaRd_row, fun s idx =>
    ⟨_, exec_alphaRd idx s, onlyResponds_present s _, alphaRdResponse_flags alpha idx, fun hbad => ?_, fun hlt => ?_,
      fun hnum => ?_, fun hlow => ?_, fun hup => ?_⟩⟩
  · rw [alphaRdResponse_of_bad hbad]
    exact ⟨rfl, rfl⟩
  · rw [alphaRdResponse_of_lt hlt]
    rfl
  · exact (toNat_alphaRdResponse_data (by omega)).trans (toNat_alpha_numeral hnum)
  · exact (toNat_alphaRdResponse_data (by omega)).trans (toNat_alpha_lowercase hlow)
  · exact (toNat_alphaRdResponse_data (by omega)).trans (toNat_alpha_uppercase hup)

/-- Settles O6: the ranges of the statement are those of the reverse-lookup ROM (R44). -/
theorem rlutRdReadsTheReverseLookup : Obligations.RlutRdReadsTheReverseLookup := by
  refine ⟨fun _ => decodeWord_of_rlutRd_row, fun s code =>
    ⟨_, exec_rlutRd code s, onlyResponds_present s _, rfl, ?_⟩⟩
  rw [State.present_rspFlagsQ, State.present_rspDataQ]
  split_ifs with hnum hlow hup
  · exact rlutRdResponse_entry_fields (by omega) (by rw [rlut, if_pos hnum])
  · exact rlutRdResponse_entry_fields (by omega) (by rw [rlut, if_neg hnum, if_pos hlow])
  · exact rlutRdResponse_entry_fields (by omega) (by rw [rlut, if_neg hnum, if_neg hlow, if_pos hup])
  · rw [rlutRdResponse_of_foreign (by rw [rlut, if_neg hnum, if_neg hlow, if_neg hup])]
    exact ⟨rfl, rfl⟩

/-- Settles O9: the digit of the character of d is d, and the count is that of the digits. -/
theorem romReadsChain : Obligations.RomReadsChain := by
  refine ⟨fun s u d hd => ⟨_, _, exec_alphaRd d s, exec_rlutRd _ u, ?_⟩, ?_⟩
  · rw [State.response_present, State.present_rspDataQ, alphaRdResponse_data_code hd,
      rlutRdResponse_of_entry hd (rlut_alpha hd), BitVec.ofNat_toNat]
    rfl
  · simp only [nonAlpha_rlutRdResponse, Bool.not_not]
    rw [← List.toFinset_card_of_nodup (List.nodup_range.filter _), List.toFinset_filter, List.toFinset_range,
      card_filter_rlutValid]

end Sys2Proof.Machine
end

section
/-! PROOF. The words that the decoder refuses, as a list over OP (30_encoding.md R68). -/

namespace Sys2Proof

section Illegal

variable {w : CmdWord}

/-- Bits [15:4], all that the format of ENCODE reserves (R60). -/
theorem encode_word_iff_fields : w = 0x0001 ↔ w.extractLsb' 4 12 = 0 ∧ opField w = 1 := by
  constructor
  · rintro rfl
    exact ⟨rfl, rfl⟩
  · rintro ⟨hhigh, hop⟩
    have hsplit : w.extractLsb' 4 12 ++ opField w = w :=
      (BitVec.extractLsb'_append_extractLsb'_eq_extractLsb' (show 4 = 0 + 4 from rfl)).trans BitVec.extractLsb'_eq_self
    rw [← hsplit, hhigh, hop]
    rfl

theorem extractLsb'_eq_zero_iff {n start len : Nat} (x : BitVec n) :
    x.extractLsb' start len = 0 ↔ ∀ i < len, x.getLsbD (start + i) = false := by
  constructor
  · intro h i hi
    simpa [hi] using congrArg (BitVec.getLsbD · i) h
  · intro h
    refine BitVec.eq_of_getLsbD_eq fun i hi => ?_
    simp [h i hi]

/-- Bits [7:4], which the formats of the ROM reads reserve, are the three reserved bits and S (R60). -/
theorem bits_seven_four_eq_zero_iff : w.extractLsb' 4 4 = 0 ↔ reservedField w = 0 ∧ strictField w = false := by
  rw [reservedField, extractLsb'_eq_zero_iff, extractLsb'_eq_zero_iff, Nat.forall_lt_succ_left, and_comm, strictField]
  simp only [Nat.add_assoc, Nat.add_comm]

/-- The decoder refuses a word exactly when no row of the opcode map matches it (R66, R68). -/
theorem decodeWord_error_iff :
    (∃ e, decodeWord w = .error e) ↔
      w ≠ 0x0001 ∧ w &&& 0x00EF ≠ 0x0002 ∧ w &&& 0x00FF ≠ 0x0003 ∧ w &&& 0x00FF ≠ 0x0004 := by
  have hencode_row : w &&& 0xFFFF = 0x0001 ↔ w = 0x0001 := encode_row_iff
  rw [ne_eq w, ← hencode_row]
  constructor
  · rintro ⟨e, he⟩
    unfold decodeWord at he
    split_ifs at he with hencode hdecode halpha hrlut
    exact ⟨hencode, hdecode, halpha, hrlut⟩
  · rintro ⟨hencode, hdecode, halpha, hrlut⟩
    exact ⟨illegalReason w, by rw [decodeWord, if_neg hencode, if_neg hdecode, if_neg halpha, if_neg hrlut]⟩

/-- A word is illegal or one of the four rows answers it (R66). -/
theorem error_or_row (w : CmdWord) :
    (∃ e, decodeWord w = .error e) ∨
      w = 0x0001 ∨ w &&& 0x00EF = 0x0002 ∨ w &&& 0x00FF = 0x0003 ∨ w &&& 0x00FF = 0x0004 := by
  rw [decodeWord_error_iff]
  tauto

theorem op_cases (op : BitVec 4) : 5 ≤ op.toNat ∨ op = 0 ∨ op = 1 ∨ op = 2 ∨ op = 3 ∨ op = 4 := by
  revert op
  decide

/-- R68's own list: OP that no row has, or a reserved bit that the row of OP finds set. -/
theorem decodeWord_error_iff_fields :
    (∃ e, decodeWord w = .error e) ↔
      opField w = 0 ∨ 5 ≤ (opField w).toNat ∨
        opField w = 1 ∧ w.extractLsb' 4 12 ≠ 0 ∨
        opField w = 2 ∧ reservedField w ≠ 0 ∨
        (opField w = 3 ∨ opField w = 4) ∧ w.extractLsb' 4 4 ≠ 0 := by
  have halpha : w &&& 0x00FF = 0x0003 ↔ w.extractLsb' 4 4 = 0 ∧ opField w = 3 := by
    rw [alphaRd_row_iff, bits_seven_four_eq_zero_iff, and_assoc]
  have hrlut : w &&& 0x00FF = 0x0004 ↔ w.extractLsb' 4 4 = 0 ∧ opField w = 4 := by
    rw [rlutRd_row_iff, bits_seven_four_eq_zero_iff, and_assoc]
  rw [decodeWord_error_iff, ne_eq, ne_eq, ne_eq, ne_eq, encode_word_iff_fields, decode_row_iff, halpha, hrlut]
  rcases op_cases (opField w) with hop | hop | hop | hop | hop | hop
  case inl =>
    have hne : ∀ n : BitVec 4, n.toNat < 5 → opField w ≠ n := by
      rintro n hn rfl
      omega
    simp [hop, hne]
  all_goals simp [hop]

end Illegal

end Sys2Proof
end

section
/-! PROOF. The causes of failure (60_exceptions.md R151 to R155): a command with a cause is answered with the error response
of that cause, and a command with none is answered OK. -/

namespace Sys2Proof.Machine

/-- The cause column of R151 for the status of a failure, with the priority of R157 written into each cause. -/
def FailureCause (w : CmdWord) (p : Bus) : Status → Prop
  | .ok          => False
  | .illegalCmd  => ∃ e, decodeWord w = .error e
  | .wrongLength => w &&& 0x00EF = 0x0002 ∧ argField w ≠ 22
  | .invalidChar =>
    w &&& 0x00EF = 0x0002 ∧ argField w = 22 ∧ strictField w = true ∧ ∃ q < 22, rlutValid (chr p q) = false
  | .badIndex    => w &&& 0x00FF = 0x0003 ∧ 62 ≤ (argField w).toNat

theorem Status.code_injective : Function.Injective Status.code := by
  intro st st'
  cases st <;> cases st' <;> decide

theorem Status.code_le (st : Status) : st.code.toNat ≤ 4 := by
  cases st <;> decide

/-- A cause decides the whole response: its status, with flags 0 and data 0 (R156). -/
theorem execute_of_failureCause {w : CmdWord} {p : Bus} {st : Status} (h : FailureCause w p st) :
    execute w p = errorResponse st := by
  cases st with
  | ok => exact h.elim
  | illegalCmd =>
    obtain ⟨e, he⟩ := h
    exact execute_of_decodeWord_error he p
  | wrongLength =>
    obtain ⟨hw, hlen⟩ := h
    rw [execute_of_decode_row hw, decodeResponse_of_wrong_length hlen]
  | invalidChar =>
    obtain ⟨hw, hlen, hstrict, hforeign⟩ := h
    rw [execute_of_decode_row hw, hlen, hstrict, decodeResponse_strict_of_foreign ((hasNonAlpha_iff p).mpr hforeign)]
  | badIndex =>
    obtain ⟨hw, hidx⟩ := h
    rw [execute_of_alphaRd_row hw, alphaRdResponse_of_bad hidx]

/-- A response without a cause of failure is OK: the rows one by one. -/
theorem failureCause_or_status_ok (w : CmdWord) (p : Bus) :
    (∃ st, FailureCause w p st) ∨ (execute w p).status = Status.ok.code := by
  rcases error_or_row w with herror | rfl | hw | hw | hw
  · exact .inl ⟨.illegalCmd, herror⟩
  · exact .inr rfl
  · by_cases hlen : argField w = 22
    · by_cases hbad : strictField w = true ∧ hasNonAlpha p = true
      · obtain ⟨hstrict, hforeign⟩ := hbad
        exact .inl ⟨.invalidChar, hw, hlen, hstrict, (hasNonAlpha_iff p).mp hforeign⟩
      · have hpass : strictField w = false ∨ hasNonAlpha p = false := by simpa [imp_iff_not_or] using hbad
        rw [execute_of_decode_row hw, hlen, decodeResponse_of_accepted hpass]
        exact .inr rfl
    · exact .inl ⟨.wrongLength, hw, hlen⟩
  · rcases Nat.lt_or_ge (argField w).toNat 62 with hidx | hidx
    · rw [execute_of_alphaRd_row hw, alphaRdResponse_of_lt hidx]
      exact .inr rfl
    · exact .inl ⟨.badIndex, hw, hidx⟩
  · rw [execute_of_rlutRd_row hw]
    exact .inr rfl

theorem execute_cause_of_status_ne {w : CmdWord} {p : Bus} (h : (execute w p).status ≠ Status.ok.code) :
    ∃ st, FailureCause w p st ∧ execute w p = errorResponse st := by
  obtain ⟨st, hst⟩ := (failureCause_or_status_ok w p).resolve_right h
  exact ⟨st, hst, execute_of_failureCause hst⟩

/-- Each failure status has exactly its cause, since the causes give different statuses. -/
theorem execute_status_iff (w : CmdWord) (p : Bus) {st : Status} (hst : st ≠ .ok) :
    (execute w p).status = st.code ↔ FailureCause w p st := by
  constructor
  · intro h
    have hfail : (execute w p).status ≠ Status.ok.code := by
      rw [h]
      exact Status.code_injective.ne hst
    obtain ⟨st', hcause, hresp⟩ := execute_cause_of_status_ne hfail
    rw [hresp] at h
    rwa [← Status.code_injective h]
  · intro h
    rw [execute_of_failureCause h, errorResponse_status]

theorem execute_status_le (w : CmdWord) (p : Bus) : (execute w p).status.toNat ≤ 4 := by
  rcases failureCause_or_status_ok w p with ⟨st, hst⟩ | hok
  · rw [execute_of_failureCause hst]
    exact st.code_le
  · rw [hok]
    exact Status.ok.code_le

end Sys2Proof.Machine
end

section
/-! PROOF. No edge ends in a fault (60_exceptions.md R150). -/

namespace Sys2Proof.Machine

theorem idleEdge_ne_fault (lat : Nat) (v : Bool) (p : Pins) (s : State) (f : Fault) : idleEdge lat v p s ≠ .fault f := by
  rcases idleEdge_cases lat v p s with ⟨_, he⟩ | ⟨_, _, _, _, _, he⟩ | ⟨_, _, he⟩ <;> rw [he] <;> nofun

theorem awaitingEdge_ne_fault (lat : Nat) (v : Bool) (s : State) (f : Fault) : awaitingEdge lat v s ≠ .fault f := by
  rcases awaitingEdge_cases lat v s with ⟨_, he⟩ | ⟨_, he⟩ <;> rw [he] <;> nofun

/-- The result edge answers a next state for every word, so the check of a reserved status never fires (I5). -/
theorem busyEdge_ne_fault (s : State) (f : Fault) : busyEdge s ≠ .fault f := by
  rcases busyEdge_cases s with ⟨_, he⟩ | ⟨_, he⟩
  · rw [he]
    nofun
  · rw [he, resultEdge_eq]
    nofun

theorem respEdge_ne_fault (r : Bool) (s : State) (f : Fault) : respEdge r s ≠ .fault f := by
  rcases respEdge_cases r s with ⟨_, he⟩ | ⟨_, he⟩ <;> rw [he] <;> nofun

theorem clockEdge_ne_fault (lat : Nat) (p : Pins) (s : State) (f : Fault) : clockEdge lat p s ≠ .fault f := by
  unfold clockEdge
  split
  case h_2 => nofun
  case h_1 rst v r _ _ _ =>
    split_ifs
    · nofun
    · exact awaitingEdge_ne_fault lat v s f
    · cases s.fsm with
      | idle => exact idleEdge_ne_fault lat v p s f
      | busy => exact busyEdge_ne_fault s f
      | resp => exact respEdge_ne_fault r s f

end Sys2Proof.Machine
end

section
/-! PROOF. The statements about errors, each from the rules above. -/

namespace Sys2Proof.Machine

/-- Settles O23. -/
theorem statusNamesTheFirstCause : Obligations.StatusNamesTheFirstCause := fun w p =>
  ⟨(execute_status_iff w p (st := .illegalCmd) nofun).trans decodeWord_error_iff,
    execute_status_iff w p (st := .wrongLength) nofun, execute_status_iff w p (st := .invalidChar) nofun,
    execute_status_iff w p (st := .badIndex) nofun, execute_status_le w p⟩

/-- Settles O24: a response that is not OK is the error response of its cause. -/
theorem failedResponseIsEmpty : Obligations.FailedResponseIsEmpty := by
  intro w p h
  obtain ⟨st, _, hresp⟩ := execute_cause_of_status_ne h
  rw [hresp]
  exact ⟨errorResponse_flags st, errorResponse_data st⟩

/-- Settles O31. -/
theorem illegalWordIsAnswered : Obligations.IllegalWordIsAnswered := by
  refine ⟨fun _ => decodeWord_error_iff_fields, fun s p e ha hs hdef hrst hf hcnt hword => ?_⟩
  have hresp : execute s.cmdQ s.payQ = illegalResponse := execute_of_decodeWord_error hword s.payQ
  obtain ⟨t, hstep, honly, ht⟩ := resultEdgeRespondsWithExecute s p ha hs hdef hrst hf hcnt
  exact ⟨t, hstep, honly, ht.trans hresp⟩

/-- Settles O43: a step is a rising edge, or a loss of power, which answers a next state. -/
theorem noStepFaults : Obligations.NoStepFaults := by
  intro s f
  unfold step cycle
  split
  case h_1 p _ => exact clockEdge_ne_fault Config.lat p s.advance f
  case h_2 => nofun

end Sys2Proof.Machine
end

section
/-! PROOF. Runs: they add up, and a claim that each silent step keeps is carried along a script. -/

namespace Sys2Proof.Machine

/-! ### Runs add up -/

theorem exists_step_of_runSteps {k : Nat} {s t : State} (h : runSteps (k + 1) s = .next t) :
    ∃ u, step s = .next u ∧ runSteps k u = .next t := by
  cases hstep : step s with
  | next u => exact ⟨u, rfl, (runSteps_succ hstep).symm.trans h⟩
  | fault r => simp [runSteps, hstep] at h
  | refused r => simp [runSteps, hstep] at h

theorem run_add {k : Nat} {s t : State} (m : Nat) (h : runSteps k s = .next t) :
    runSteps (k + m) s = runSteps m t ∧ observed (k + m) s = observed k s ++ observed m t := by
  induction k generalizing s with
  | zero =>
    cases h
    rw [Nat.zero_add]
    exact ⟨rfl, rfl⟩
  | succ k ih =>
    obtain ⟨u, hstep, hrun⟩ := exists_step_of_runSteps h
    obtain ⟨hsteps, hobs⟩ := ih hrun
    rw [Nat.succ_add, runSteps_succ hstep, observed_succ hstep, observed_succ hstep, hobs, List.append_assoc]
    exact ⟨hsteps, rfl⟩

theorem runSteps_one (s : State) : runSteps 1 s = step s := by
  cases h : step s <;> simp [runSteps, h]

/-- The last step of a run decides its outcome. -/
theorem runSteps_succ_last {k : Nat} {s t : State} (h : runSteps k s = .next t) : runSteps (k + 1) s = step t := by
  obtain ⟨hsteps, _⟩ := run_add 1 h
  exact hsteps.trans (runSteps_one t)

/-! ### Runs along a script -/

/-- The next k steps lead from s to t, use up that much of the script, and hand over no response. -/
structure RunsSilently (k : Nat) (s t : State) : Prop where
  run : runSteps k s = .next t
  silent : observed k s = []
  script : t.script = s.script.drop k

theorem RunsSilently.cons {k : Nat} {s u t : State} (hstep : step s = .next u) (hnone : s.consumedNow = none)
    (h : RunsSilently k u t) : RunsSilently (k + 1) s t where
  run := (runSteps_succ hstep).trans h.run
  silent := by rw [observed_succ hstep, hnone, h.silent]; rfl
  script := by rw [h.script, step_script hstep, List.drop_tail]

/-- A claim with a count of steps to go, which every silent step with a stimulus in `Q` takes one down, is carried along a
script of such stimuli. -/
theorem run_of_step {P : Nat → State → Prop} {Q : Stimulus → Prop}
    (hkeep : ∀ n s, P (n + 1) s → Q s.stimulus → ∃ t, step s = .next t ∧ s.consumedNow = none ∧ P n t) {n : Nat} (k : Nat)
    {s : State} (hs : P (n + k) s) (hlen : k ≤ s.script.length) (hQ : ∀ x ∈ s.script.take k, Q x) :
    ∃ t, RunsSilently k s t ∧ P n t := by
  induction k generalizing s with
  | zero => exact ⟨s, ⟨rfl, rfl, rfl⟩, hs⟩
  | succ k ih =>
    obtain ⟨hhead, htlen, htail⟩ := stimulus_and_tail_of_take hlen hQ
    obtain ⟨u, hstep, hnone, hu⟩ := hkeep (n + k) s hs hhead
    have hscript : u.script = s.script.tail := step_script hstep
    obtain ⟨t, hrun, ht⟩ := ih hu (by rwa [hscript]) (by rwa [hscript])
    exact ⟨t, hrun.cons hstep hnone, ht⟩

/-! ### Edges at which nothing is offered -/

/-- A stimulus that offers nothing is an edge without reset, with defined control inputs and no command. -/
theorem Stimulus.offersNothing_iff (x : Stimulus) :
    x.offersNothing = true ↔
      ∃ p, x = .edge p ∧ p.controlsDefined = true ∧ p.rst = some false ∧ p.cmdValid = some false := by
  cases x <;> simp [Stimulus.offersNothing, and_assoc]

end Sys2Proof.Machine
end

section
/-! PROOF. Resets: nothing crosses the channels at a reset edge (70_reset_and_hazards.md R180), the block waits for one after
a loss of power (R182), and after one it stays in IDLE until a command is offered (R181). -/

namespace Sys2Proof.Machine

/-! ### The reset edge (R180) -/

theorem acceptedNow_at_reset {s : State} {p : Pins} (hs : s.stimulus = .edge p) (hrst : p.rst = some true) :
    s.acceptedNow = none := by
  simp only [State.acceptedNow, hs]
  split
  · simp [hrst]
  · rfl

theorem consumedNow_at_reset {s : State} {p : Pins} (hs : s.stimulus = .edge p) (hrst : p.rst = some true) :
    s.consumedNow = none := by
  simp [State.consumedNow, hs, hrst]

/-! ### From a loss of power to the first reset edge (R182) -/

theorem step_of_powerCycle {s : State} (hs : s.stimulus = .powerCycle) :
    step s = .next (s.advance.powerUp Config.lat) := by
  simp [step, cycle, hs]

theorem step_while_awaiting {s : State} {p : Pins} {v : Bool} (ha : s.awaitsReset = true) (hs : s.stimulus = .edge p)
    (hdef : p.controlsDefined = true) (hrst : p.rst = some false) (hv : p.cmdValid = some v) :
    step s = awaitingEdge Config.lat v s.advance := by
  obtain ⟨_, _, r, _, _, hr⟩ := p.controlsDefined_iff.mp hdef
  rw [step_of_edge hs]
  simp [clockEdge, hrst, hv, hr, ha]

theorem step_keeps_awaiting {s : State} (ha : s.awaitsReset = true) (hx : s.stimulus.offersNothing = true) :
    ∃ t, step s = .next t ∧ s.consumedNow = none ∧ t.awaitsReset = true := by
  obtain ⟨p, hs, hdef, hrst, hv⟩ := s.stimulus.offersNothing_iff.mp hx
  exact ⟨_, step_while_awaiting ha hs hdef hrst hv, consumedNow_of_not_presents (not_presents_of_awaitsReset ha),
    State.powerUp_awaitsReset _ _⟩

/-- However many edges come first, the block awaits a reset after a loss of power as long as nothing is offered. -/
theorem run_awaits_after_powerCycle {s : State} {xs rest : List Stimulus}
    (hscript : s.script = .powerCycle :: (xs ++ rest)) (hxs : ∀ x ∈ xs, x.offersNothing = true) :
    ∃ t, runSteps (xs.length + 1) s = .next t ∧ t.awaitsReset = true ∧ t.script = rest := by
  have hstep := step_of_powerCycle (State.stimulus_of_script hscript)
  have htail : (s.advance.powerUp Config.lat).script = xs ++ rest :=
    (step_script hstep).trans (congrArg List.tail hscript)
  have hlen : xs.length ≤ (xs ++ rest).length := List.length_append ▸ Nat.le_add_right _ _
  obtain ⟨t, hrun, ha⟩ :=
    run_of_step (P := fun _ t => t.awaitsReset = true) (n := 0) (fun _ _ => step_keeps_awaiting) xs.length
      (State.powerUp_awaitsReset s.advance Config.lat) (by rwa [htail]) (by rwa [htail, List.take_left])
  exact ⟨t, (runSteps_succ hstep).trans hrun.run, ha, by rw [hrun.script, htail, List.drop_left]⟩

/-! ### From a reset edge to the first command (R181) -/

theorem consumedNow_of_idle {s : State} (h : s.fsm = .idle) : s.consumedNow = none :=
  consumedNow_of_not_presents (not_presents_of_fsm_ne (h.trans_ne nofun))

theorem step_keeps_idle {s : State} (hs : s.fsm = .idle ∧ s.awaitsReset = false)
    (hx : s.stimulus.offersNothing = true) :
    ∃ t, step s = .next t ∧ s.consumedNow = none ∧ t.fsm = .idle ∧ t.awaitsReset = false := by
  obtain ⟨hf, ha⟩ := hs
  obtain ⟨p, hstim, hdef, hrst, hv⟩ := s.stimulus.offersNothing_iff.mp hx
  exact ⟨s.advance, (step_in_idle ha hstim hdef hrst hf hv).trans (idleEdge_hold _ _ _), consumedNow_of_idle hf, hf, ha⟩

/-- A host that offers nothing keeps the block in IDLE. -/
theorem run_keeps_idle {k : Nat} {s : State} (hs : s.fsm = .idle ∧ s.awaitsReset = false) (hlen : k ≤ s.script.length)
    (hxs : ∀ x ∈ s.script.take k, x.offersNothing = true) :
    ∃ t, RunsSilently k s t ∧ t.fsm = .idle ∧ t.awaitsReset = false :=
  run_of_step (P := fun _ t => t.fsm = .idle ∧ t.awaitsReset = false) (n := 0) (fun _ _ => step_keeps_idle) k hs hlen hxs

end Sys2Proof.Machine
end

section
/-! PROOF. Refusals: the duties of the host that an edge can show (70_reset_and_hazards.md R185, R193), and that an edge is
refused exactly when one of them is broken. -/

namespace Sys2Proof.Machine

/-- The edge reads an input that is unknown: a control input, or at an acceptance edge the word or the payload (R185). -/
def State.readsUndefined (s : State) (p : Pins) : Prop :=
  p.controlsDefined = false ∨
    p.rst = some false ∧ s.awaitsReset = false ∧ s.fsm = .idle ∧ p.cmdValid = some true ∧
      (p.cmdWord = none ∨ p.cmdPayload = none)

/-- The edge has a command offered to it between power-up and the first reset edge (R182). -/
def State.offeredTooEarly (s : State) (p : Pins) : Prop :=
  p.controlsDefined = true ∧ p.rst = some false ∧ s.awaitsReset = true ∧ p.cmdValid = some true

/-! ### A broken duty is refused -/

theorem clockEdge_of_not_controlsDefined {p : Pins} (h : p.controlsDefined = false) (lat : Nat) (s : State) :
    clockEdge lat p s = .refused .undefinedInput := by
  unfold clockEdge
  split
  case h_1 rst v r hrst hv hr => simp [Pins.controlsDefined, hrst, hv, hr] at h
  case h_2 => rfl

theorem idleEdge_of_undefined {p : Pins} (h : p.cmdWord = none ∨ p.cmdPayload = none) (lat : Nat) (s : State) :
    idleEdge lat true p s = .refused .undefinedInput := by
  rcases h with hw | hd
  · simp [idleEdge, hw]
  · cases hw : p.cmdWord <;> simp [idleEdge, hw, hd]

theorem step_of_readsUndefined {s : State} {p : Pins} (hs : s.stimulus = .edge p) (h : s.readsUndefined p) :
    step s = .refused .undefinedInput := by
  cases hdef : p.controlsDefined with
  | false => exact (step_of_edge hs).trans (clockEdge_of_not_controlsDefined hdef _ _)
  | true =>
    obtain ⟨hrst, ha, hf, hv, hbus⟩ := h.resolve_left (by simp [hdef])
    exact (step_in_idle ha hs hdef hrst hf hv).trans (idleEdge_of_undefined hbus _ _)

theorem step_of_offeredTooEarly {s : State} {p : Pins} (hs : s.stimulus = .edge p) (h : s.offeredTooEarly p) :
    step s = .refused .offerBeforeReset := by
  obtain ⟨hdef, hrst, ha, hv⟩ := h
  exact step_while_awaiting ha hs hdef hrst hv

/-! ### A refusal shows a broken duty -/

/-- In IDLE only an acceptance edge is refused, for an unknown word or payload. -/
theorem idleEdge_refused {lat : Nat} {v : Bool} {p : Pins} {s : State} {r : Refusal}
    (h : idleEdge lat v p s = .refused r) :
    r = .undefinedInput ∧ v = true ∧ (p.cmdWord = none ∨ p.cmdPayload = none) := by
  rcases idleEdge_cases lat v p s with ⟨_, he⟩ | ⟨_, _, _, _, _, he⟩ | ⟨hv, hbus, he⟩ <;> rw [he] at h <;> cases h
  exact ⟨rfl, hv, hbus⟩

theorem awaitingEdge_refused {lat : Nat} {v : Bool} {s : State} {r : Refusal} (h : awaitingEdge lat v s = .refused r) :
    r = .offerBeforeReset ∧ v = true := by
  rcases awaitingEdge_cases lat v s with ⟨_, he⟩ | ⟨hv, he⟩ <;> rw [he] at h <;> cases h
  exact ⟨rfl, hv⟩

theorem busyEdge_ne_refused (s : State) (r : Refusal) : busyEdge s ≠ .refused r := by
  rcases busyEdge_cases s with ⟨_, he⟩ | ⟨_, he⟩
  · rw [he]
    nofun
  · rw [he, resultEdge_eq]
    nofun

theorem respEdge_ne_refused (v : Bool) (s : State) (r : Refusal) : respEdge v s ≠ .refused r := by
  rcases respEdge_cases v s with ⟨_, he⟩ | ⟨_, he⟩ <;> rw [he] <;> nofun

/-- Everything that an edge can be refused for. -/
theorem edge_refused {s : State} {p : Pins} {r : Refusal} (hs : s.stimulus = .edge p) (h : step s = .refused r) :
    (r = .undefinedInput ∧ s.readsUndefined p) ∨ (r = .offerBeforeReset ∧ s.offeredTooEarly p) := by
  cases hdef : p.controlsDefined with
  | false =>
    rw [step_of_edge hs, clockEdge_of_not_controlsDefined hdef] at h
    cases h
    exact .inl ⟨rfl, .inl hdef⟩
  | true =>
    obtain ⟨rst, v, ready, hrst, hv, hready⟩ := p.controlsDefined_iff.mp hdef
    cases rst with
    | true =>
      rw [step_at_reset hs hdef hrst] at h
      cases h
    | false =>
      cases ha : s.awaitsReset with
      | true =>
        rw [step_while_awaiting ha hs hdef hrst hv] at h
        obtain ⟨rfl, rfl⟩ := awaitingEdge_refused h
        exact .inr ⟨rfl, hdef, hrst, ha, hv⟩
      | false =>
        cases hf : s.fsm with
        | idle =>
          rw [step_in_idle ha hs hdef hrst hf hv] at h
          obtain ⟨rfl, rfl, hbus⟩ := idleEdge_refused h
          exact .inl ⟨rfl, .inr ⟨hrst, ha, hf, hv, hbus⟩⟩
        | busy =>
          rw [step_in_busy ha hs hdef hrst hf] at h
          exact absurd h (busyEdge_ne_refused _ _)
        | resp =>
          rw [step_in_resp ha hs hdef hrst hf hready] at h
          exact absurd h (respEdge_ne_refused _ _ _)

/-- Only an edge is refused: a loss of power answers a next state. -/
theorem step_refused {s : State} {r : Refusal} (h : step s = .refused r) :
    ∃ p, s.stimulus = .edge p ∧
      ((r = .undefinedInput ∧ s.readsUndefined p) ∨ (r = .offerBeforeReset ∧ s.offeredTooEarly p)) := by
  cases hs : s.stimulus with
  | edge p => exact ⟨p, rfl, edge_refused hs h⟩
  | powerCycle =>
    rw [step_of_powerCycle hs] at h
    cases h

end Sys2Proof.Machine
end

section
/-! PROOF. A command from its acceptance edge to its response, and to the host that takes it (70_reset_and_hazards.md R188,
R191). -/

namespace Sys2Proof.Machine

/-- The command c is being executed, with `left` busy edges before its result edge (R23, R24). -/
structure State.Executing (c : Command) (left : Nat) (s : State) : Prop where
  fsm : s.fsm = .busy
  awaitsReset : s.awaitsReset = false
  cnt : s.cnt = left
  cmdQ : s.cmdQ = c.word
  payQ : s.payQ = c.payload

/-- The response to the command c is presented (R25, R30). -/
structure State.Responding (c : Command) (s : State) : Prop where
  fsm : s.fsm = .resp
  awaitsReset : s.awaitsReset = false
  response : s.response = c.result

/-! ### One edge -/

theorem Stimulus.exists_edge_of_runs {x : Stimulus} (h : x.runs = true) :
    ∃ p, x = .edge p ∧ p.controlsDefined = true ∧ p.rst = some false := by
  obtain ⟨p, v, r, rfl, hrst, hv, hr⟩ := x.runs_iff.mp h
  exact ⟨p, rfl, p.controlsDefined_iff.mpr ⟨_, _, _, hrst, hv, hr⟩, hrst⟩

/-- What a command that is accepted says of the state and of the pins (R28). -/
theorem acceptedNow_eq_some {s : State} {p : Pins} {c : Command} (hs : s.stimulus = .edge p)
    (h : s.acceptedNow = some c) :
    s.fsm = .idle ∧ s.awaitsReset = false ∧ p.cmdValid = some true ∧ p.cmdWord = some c.word ∧
      p.cmdPayload = some c.payload := by
  simp only [State.acceptedNow, hs] at h
  split at h
  case h_1 w d hw hd =>
    split_ifs at h with hedge
    obtain ⟨hf, ha, _, hv⟩ := hedge
    cases h
    exact ⟨hf, ha, hv, hw, hd⟩
  case h_2 => cases h

theorem step_accepts {s : State} {c : Command} (hc : s.acceptedNow = some c) (hx : s.stimulus.runs = true) :
    ∃ t, step s = .next t ∧ s.consumedNow = none ∧ t.Executing c (Config.lat - 1) := by
  obtain ⟨p, hs, hdef, hrst⟩ := Stimulus.exists_edge_of_runs hx
  obtain ⟨hf, ha, hv, hw, hd⟩ := acceptedNow_eq_some hs hc
  exact ⟨_, (step_in_idle ha hs hdef hrst hf hv).trans (idleEdge_accept hw hd _ _), consumedNow_of_idle hf,
    rfl, ha, rfl, rfl, rfl⟩

theorem step_counts_down {s : State} {c : Command} {n : Nat} (h : s.Executing c (n + 1)) (hx : s.stimulus.runs = true) :
    ∃ t, step s = .next t ∧ t.Executing c n := by
  obtain ⟨p, hs, hdef, hrst⟩ := Stimulus.exists_edge_of_runs hx
  have hpos : 0 < s.advance.cnt := h.cnt.symm ▸ Nat.succ_pos n
  have hcnt : s.cnt - 1 = n := by rw [h.cnt, Nat.add_sub_cancel]
  exact ⟨_, (step_in_busy h.awaitsReset hs hdef hrst h.fsm).trans (busyEdge_of_pos hpos), h.fsm, h.awaitsReset, hcnt,
    h.cmdQ, h.payQ⟩

theorem step_responds {s : State} {c : Command} (h : s.Executing c 0) (hx : s.stimulus.runs = true) :
    ∃ t, step s = .next t ∧ t.Responding c := by
  obtain ⟨p, hs, hdef, hrst⟩ := Stimulus.exists_edge_of_runs hx
  obtain ⟨t, hstep, honly, hresp⟩ := resultEdgeRespondsWithExecute s p h.awaitsReset hs hdef hrst h.fsm h.cnt
  obtain ⟨hf, _, _, _, ha, _, _⟩ := honly
  rw [h.cmdQ, h.payQ] at hresp
  exact ⟨t, hstep, hf, ha.trans h.awaitsReset, hresp⟩

/-! ### From the acceptance edge on -/

/-- The command c is being served, with n edges to go before its response is presented. -/
def State.Serving (c : Command) : Nat → State → Prop
  | 0     => State.Responding c
  | n + 1 => State.Executing c n

theorem fsm_ne_idle_of_serving {c : Command} {n : Nat} {s : State} (h : s.Serving c n) : s.fsm ≠ .idle := by
  cases n with
  | zero => exact h.fsm.trans_ne nofun
  | succ n => exact h.fsm.trans_ne nofun

theorem fsm_of_serving {c : Command} {n : Nat} {s : State} (h : s.Serving c n) (hn : 0 < n) : s.fsm = .busy := by
  obtain ⟨m, rfl⟩ := Nat.exists_eq_add_one_of_ne_zero hn.ne'
  exact h.fsm

theorem step_serves {c : Command} (n : Nat) (s : State) (h : s.Serving c (n + 1)) (hx : s.stimulus.runs = true) :
    ∃ t, step s = .next t ∧ s.consumedNow = none ∧ t.Serving c n := by
  have hbusy : s.fsm = .busy := h.fsm
  have hnone : s.consumedNow = none := consumedNow_of_not_presents (not_presents_of_fsm_ne (hbusy.trans_ne nofun))
  cases n with
  | zero =>
    obtain ⟨t, hstep, ht⟩ := step_responds h hx
    exact ⟨t, hstep, hnone, ht⟩
  | succ n =>
    obtain ⟨t, hstep, ht⟩ := step_counts_down h hx
    exact ⟨t, hstep, hnone, ht⟩

/-- The acceptance edge and the j edges after it leave LAT - j edges to go, whatever the host does in between without a
reset (R191). -/
theorem run_serves {s : State} {c : Command} {j : Nat} (hc : s.acceptedNow = some c) (hj : j ≤ Config.lat)
    (hlen : j + 1 ≤ s.script.length) (hruns : ∀ x ∈ s.script.take (j + 1), x.runs = true) :
    ∃ t, RunsSilently (j + 1) s t ∧ t.Serving c (Config.lat - j) := by
  obtain ⟨hhead, htlen, htail⟩ := stimulus_and_tail_of_take hlen hruns
  obtain ⟨u, hstep, hnone, hexec⟩ := step_accepts hc hhead
  have hserving : u.Serving c (Config.lat - j + j) := by
    rw [Nat.sub_add_cancel hj, ← Nat.sub_add_cancel lat_pos]
    exact hexec
  have hscript : u.script = s.script.tail := step_script hstep
  obtain ⟨t, hrun, ht⟩ := run_of_step step_serves j hserving (by rwa [hscript]) (by rwa [hscript])
  exact ⟨t, hrun.cons hstep hnone, ht⟩

/-- The response comes with the LAT-th edge after the acceptance edge (R188). -/
theorem run_responds {s : State} {c : Command} (hc : s.acceptedNow = some c) (hlen : Config.lat + 1 ≤ s.script.length)
    (hruns : ∀ x ∈ s.script.take (Config.lat + 1), x.runs = true) :
    ∃ t, RunsSilently (Config.lat + 1) s t ∧ t.Responding c := by
  obtain ⟨t, hrun, ht⟩ := run_serves hc (Nat.le_refl _) hlen hruns
  rw [Nat.sub_self] at ht
  exact ⟨t, hrun, ht⟩

/-! ### Commands served one after another (R192) -/

/-- A host that takes the response gets the result of the command, and the block is in IDLE again (R32). -/
theorem step_hands_over {s : State} {c : Command} (h : s.Responding c) (hs : s.stimulus = .edge takePins) :
    s.consumedNow = some c.result ∧ step s = .next s.advance.consume := by
  have hpres : s.presents = true := s.presents_iff.mpr ⟨h.fsm, h.awaitsReset⟩
  exact ⟨h.response ▸ consumedNow_of_take hs hpres rfl rfl, step_in_resp h.awaitsReset hs rfl rfl h.fsm rfl⟩

/-- The edges of `serveCommand` before the one that takes the response. -/
def offerAndWait (c : Command) : List Stimulus := .edge (offerPins c) :: List.replicate Config.lat (.edge quietPins)

theorem serveCommand_eq (c : Command) : serveCommand c = offerAndWait c ++ [.edge takePins] := rfl

theorem length_offerAndWait (c : Command) : (offerAndWait c).length = Config.lat + 1 := by
  simp [offerAndWait]

theorem length_serveCommand (c : Command) : (serveCommand c).length = Config.lat + 1 + 1 := by
  simp [serveCommand_eq, length_offerAndWait]

theorem runs_of_mem_offerAndWait {c : Command} {x : Stimulus} (hx : x ∈ offerAndWait c) : x.runs = true := by
  rcases List.mem_cons.mp hx with rfl | hquiet
  · rfl
  · rw [List.eq_of_mem_replicate hquiet]
    rfl

/-- From IDLE a served command gives exactly its result, and IDLE again. -/
theorem run_serveCommand {s : State} {c : Command} {rest : List Stimulus} (hf : s.fsm = .idle)
    (ha : s.awaitsReset = false) (hscript : s.script = serveCommand c ++ rest) :
    ∃ t, runSteps (serveCommand c).length s = .next t ∧ observed (serveCommand c).length s = [c.result] ∧
      t.fsm = .idle ∧ t.awaitsReset = false ∧ t.script = rest := by
  have happ : s.script = offerAndWait c ++ (.edge takePins :: rest) := by
    rw [hscript, serveCommand_eq, List.append_assoc, List.singleton_append]
  have hlen : Config.lat + 1 ≤ s.script.length := by
    rw [happ, List.length_append, length_offerAndWait]
    exact Nat.le_add_right _ _
  have hruns : ∀ x ∈ s.script.take (Config.lat + 1), x.runs = true := by
    rw [happ, ← length_offerAndWait c, List.take_left]
    exact fun _ => runs_of_mem_offerAndWait
  have hacc : s.acceptedNow = some c :=
    acceptedNow_of_offer (State.stimulus_of_script happ) ha hf rfl rfl rfl rfl
  obtain ⟨u, hrun, hu⟩ := run_responds hacc hlen hruns
  have hrest : u.script = .edge takePins :: rest := by
    rw [hrun.script, happ, ← length_offerAndWait c, List.drop_left]
  obtain ⟨htaken, hstep⟩ := step_hands_over hu (State.stimulus_of_script hrest)
  obtain ⟨_, hobs⟩ := run_add 1 hrun.run
  rw [length_serveCommand]
  refine ⟨_, (runSteps_succ_last hrun.run).trans hstep, ?_, rfl, hu.awaitsReset, ?_⟩
  · rw [hobs, hrun.silent, observed_succ hstep, htaken]
    rfl
  · rw [step_script hstep, hrest, List.tail_cons]

theorem run_serveCommands (cs : List Command) {s : State} (hf : s.fsm = .idle) (ha : s.awaitsReset = false)
    (hscript : s.script = cs.flatMap serveCommand) :
    ∃ t, runSteps (cs.flatMap serveCommand).length s = .next t ∧
      observed (cs.flatMap serveCommand).length s = cs.map Command.result ∧ t.fsm = .idle := by
  induction cs generalizing s with
  | nil => exact ⟨s, rfl, rfl, hf⟩
  | cons c cs ih =>
    rw [List.flatMap_cons] at hscript ⊢
    obtain ⟨u, hrun, hobs, huf, hua, hrest⟩ := run_serveCommand hf ha hscript
    obtain ⟨t, hrun', hobs', htf⟩ := ih huf hua hrest
    obtain ⟨hsteps, hadd⟩ := run_add (cs.flatMap serveCommand).length hrun
    rw [List.length_append, hsteps, hadd, hobs, hobs', hrun']
    exact ⟨t, rfl, rfl, htf⟩

end Sys2Proof.Machine
end

section
/-! PROOF. The command of a string by the pseudo-instruction (70_reset_and_hazards.md R184, 30_encoding.md R72). -/

namespace Sys2Proof.Machine

theorem hostLength_le (n : Nat) : hostLength n ≤ 255 := Nat.min_le_right n 255

theorem toNat_ofNat_hostLength (n : Nat) : (BitVec.ofNat 8 (hostLength n)).toNat = hostLength n :=
  Nat.mod_eq_of_lt (Nat.lt_succ_of_le (hostLength_le n))

/-- No other length saturates or wraps to 22. -/
theorem ofNat_hostLength_eq_iff (n : Nat) : BitVec.ofNat 8 (hostLength n) = 22 ↔ n = 22 := by
  have hnat : hostLength n = 22 ↔ n = 22 := by
    rw [hostLength]
    omega
  rw [← BitVec.toNat_inj, toNat_ofNat_hostLength]
  exact hnat

theorem argField_decodeCommand (strict : Bool) (len : Nat) (str : List Byte) :
    argField (decodeCommand strict len str).word = BitVec.ofNat 8 len := argField_wordOfFields ..

/-- The whole error response, and not its status alone, tells the cause. -/
theorem execute_eq_errorResponse_iff (w : CmdWord) (p : Bus) {st : Status} (hst : st ≠ .ok) :
    execute w p = errorResponse st ↔ FailureCause w p st :=
  ⟨fun h => (execute_status_iff w p hst).mp (congrArg Response.status h), execute_of_failureCause⟩

theorem result_decodeCommand_eq_wrongLength_iff (strict : Bool) (len : Nat) (str : List Byte) :
    (decodeCommand strict len str).result = errorResponse .wrongLength ↔ BitVec.ofNat 8 len ≠ 22 := by
  have hrow : (decodeCommand strict len str).word &&& 0x00EF = 0x0002 := Laws.MatchesRow.decode strict _
  rw [Command.result, execute_eq_errorResponse_iff (st := .wrongLength) _ _ nofun, FailureCause, argField_decodeCommand]
  exact and_iff_right hrow

end Sys2Proof.Machine
end

section
/-! PROOF. The statements about resets and hazards, each from the rules above. -/

namespace Sys2Proof.Machine

/-- Settles O41: the block awaits a reset up to the reset edge. -/
theorem resetRecoversFromPowerLoss : Obligations.ResetRecoversFromPowerLoss := by
  intro s xs p rest hscript hxs hdef hrst
  obtain ⟨t, hrun, _, hrest⟩ := run_awaits_after_powerCycle hscript hxs
  have hstep : step t = .next (t.advance.resetEdge Config.lat) :=
    step_at_reset (State.stimulus_of_script hrest) hdef hrst
  have hawaits : (t.advance.resetEdge Config.lat).awaitsReset = false := State.resetEdge_awaitsReset _ _
  refine ⟨_, (runSteps_succ_last hrun).trans hstep, State.resetEdge_fsm _ _, ?_, outputs_cmdReady hawaits,
    outputs_rspValid hawaits⟩
  rw [step_script hstep, hrest, List.tail_cons]

/-- Settles O44: a refusal shows one of the two broken duties, and either is refused. -/
theorem refusedExactlyOnABrokenDuty : Obligations.RefusedExactlyOnABrokenDuty := by
  intro s
  refine ⟨⟨fun h => ?_, fun ⟨p, hs, hp⟩ => step_of_readsUndefined hs hp⟩,
    ⟨fun h => ?_, fun ⟨p, hs, hp⟩ => step_of_offeredTooEarly hs hp⟩, fun r h => ?_⟩
  · obtain ⟨p, hs, ⟨_, hp⟩ | ⟨hr, _⟩⟩ := step_refused h
    · exact ⟨p, hs, hp⟩
    · cases hr
  · obtain ⟨p, hs, ⟨hr, _⟩ | ⟨_, hp⟩⟩ := step_refused h
    · cases hr
    · exact ⟨p, hs, hp⟩
  · obtain ⟨p, _, ⟨hr, _⟩ | ⟨hr, _⟩⟩ := step_refused h
    · exact .inl hr
    · exact .inr hr

/-- Settles O48. -/
theorem responseComesAfterLatEdges : Obligations.ResponseComesAfterLatEdges := by
  intro s c hc hlen hruns
  refine ⟨fun j hj => ?_, ?_⟩
  · have hprefix : s.script.take (j + 1) ⊆ s.script.take (Config.lat + 1) :=
      List.take_subset_take_left _ (Nat.succ_le_succ hj.le)
    obtain ⟨t, hrun, ht⟩ := run_serves hc hj.le (by omega) fun x hx => hruns x (hprefix hx)
    exact ⟨t, hrun.run, fsm_of_serving ht (Nat.sub_pos_of_lt hj)⟩
  · obtain ⟨t, hrun, ht⟩ := run_responds hc hlen hruns
    exact ⟨t, hrun.run, ht.fsm, ht.response⟩

/-- Settles O49: up to the LAT + 1 edges after it the accepted command is being served, and only IDLE accepts. -/
theorem acceptancesAreLatPlusTwoApart : Obligations.AcceptancesAreLatPlusTwoApart := by
  intro s t c j hc hpos hj hlen hruns hrun
  obtain ⟨i, rfl⟩ := Nat.exists_eq_add_one_of_ne_zero hpos.ne'
  obtain ⟨u, hrun', hu⟩ := run_serves hc (by omega) hlen hruns
  obtain rfl : u = t := Host.Outcome.next.inj (hrun'.run.symm.trans hrun)
  exact acceptedNow_eq_none (fsm_ne_idle_of_serving hu)

/-- Settles O51: the reset edge leaves IDLE, where nothing is in flight, so what is taken later was accepted later. -/
theorem resetAbandonsTheCommand : Obligations.ResetAbandonsTheCommand := by
  intro s p rest k hscript hdef hrst hlen
  have hs : s.stimulus = .edge p := State.stimulus_of_script hscript
  have hstep : step s = .next (s.advance.resetEdge Config.lat) := step_at_reset hs hdef hrst
  have hidle : (s.advance.resetEdge Config.lat).fsm = .idle := State.resetEdge_fsm _ _
  have hawaits : (s.advance.resetEdge Config.lat).awaitsReset = false := State.resetEdge_awaitsReset _ _
  have hrest : (s.advance.resetEdge Config.lat).script = rest := by rw [step_script hstep, hscript, List.tail_cons]
  generalize s.advance.resetEdge Config.lat = u at hstep hidle hawaits hrest
  subst hrest
  have hnone : s.consumedNow = none := consumedNow_at_reset hs hrst
  refine ⟨fun hxs => ?_, fun hxs => ⟨u, hstep, ?_, ?_⟩⟩
  · obtain ⟨t, hrun, hf, ha⟩ := run_keeps_idle ⟨hidle, hawaits⟩ hlen hxs
    have hquiet : RunsSilently (k + 1) s t := hrun.cons hstep hnone
    exact ⟨t, hquiet.run, by rw [outputs_rspValid ha, hf]; rfl, hquiet.silent⟩
  · rw [accepted_succ hstep, acceptedNow_at_reset hs hrst, Option.toList_none, List.nil_append]
  · obtain ⟨horder, _, _⟩ := responsesComeInAcceptanceOrder u k hidle hlen hxs
    rwa [observed_succ hstep, hnone, Option.toList_none, List.nil_append]

/-- Settles O53. -/
theorem servedRunObservesEveryResult : Obligations.ServedRunObservesEveryResult := by
  intro s cs hscript
  have hs : s.stimulus = .edge resetPins := State.stimulus_of_script hscript
  have hstep : step s = .next (s.advance.resetEdge Config.lat) := step_at_reset hs rfl rfl
  obtain ⟨t, hrun, hobs, hf⟩ :=
    run_serveCommands cs (State.resetEdge_fsm s.advance Config.lat) (State.resetEdge_awaitsReset _ _)
      ((step_script hstep).trans (congrArg List.tail hscript))
  refine ⟨?_, t, (runSteps_succ hstep).trans hrun, hf⟩
  calc observed (serveRun cs).length s
      = s.consumedNow.toList ++ observed (cs.flatMap serveCommand).length (s.advance.resetEdge Config.lat) :=
        observed_succ hstep
    _ = cs.map Command.result := by
        rw [consumedNow_at_reset hs rfl, hobs]
        rfl

/-- Settles O54. -/
theorem stringGetsWrongLengthIffNot22 : Obligations.StringGetsWrongLengthIffNot22 := by
  intro strict str
  refine ⟨decodeCommand strict (hostLength str.length) str, assemble_of_wellFormed rfl, ?_,
    fun q => chr_packString str, ?_⟩
  · exact (congrArg BitVec.toNat (argField_decodeCommand ..)).trans (toNat_ofNat_hostLength _)
  · exact (result_decodeCommand_eq_wrongLength_iff ..).trans (ofNat_hostLength_eq_iff _).not

/-- Settles O56. -/
theorem commandBeforeTheFirstResetIsRefused : Obligations.CommandBeforeTheFirstResetIsRefused := by
  intro s xs p rest hscript hxs hdef hrst hv
  obtain ⟨t, hrun, ha, hrest⟩ := run_awaits_after_powerCycle hscript hxs
  exact (runSteps_succ_last hrun).trans
    (step_of_offeredTooEarly (State.stimulus_of_script hrest) ⟨hdef, hrst, ha, hv⟩)

/-- Settles O39. -/
theorem resetEdgeGoesToIdle : Obligations.ResetEdgeGoesToIdle := fun _ _ hs hdef hrst =>
  ⟨acceptedNow_at_reset hs hrst, consumedNow_at_reset hs hrst, _, step_at_reset hs hdef hrst, State.resetEdge_fsm _ _,
    State.resetEdge_awaitsReset _ _⟩

end Sys2Proof.Machine
end
